-- ==== Sys2Proof/Word.lean ====
section
/-! DEFINITION. The word types of the codec (00_scope.md R7, R8): bit 0 is the least significant bit of every
value, every quantity is unsigned. -/

namespace Sys2Proof

/-- A byte is 8 bits (R8). -/
abbrev Byte := BitVec 8

/-- Network-Id, short address, and every offset, size and length: 16 bits (R7). -/
abbrev Half := BitVec 16

/-- A long address, and the `arg` operand of a command word: 64 bits (R7, R106). -/
abbrev Long := BitVec 64

end Sys2Proof
end

