-- ==== Sys2Proof/Config.lean ====
section
/-! DEFINITION. The four implementation parameters (00_scope.md R5), the two reference configurations of R7, and
the free values: opaque constants with no body, of which nothing can be proved (00_scope.md R11, `any_N`). -/

namespace Sys2Proof

/-- The implementation parameters, constant for the life of a model instance (00_scope.md R5). The register port
reads them as registers 23 to 26, whose widths they have here (10_state.md R21). Which values are legal is
`Machine.wellFormedConfig`. -/
structure Config where
  /-- `CAP`, the capacity of the frame buffer in bytes. -/
  cap : Half
  /-- `HEADROOM`, the reserved leading bytes. -/
  headroom : Half
  /-- `MIC_RSVD`, the bytes kept free at the end of the buffer. -/
  micRsvd : BitVec 4
  /-- `PID_CSMA`, the Protocol-Id of the contention-access variant. -/
  pidCsma : Byte
deriving DecidableEq, Repr

/-- CFG-A of 00_scope.md R7. Its Protocol-Id is the spec's unverified default (PRESUMED, log 5). -/
def Config.cfgA : Config := { cap := 256, headroom := 0, micRsvd := 0, pidCsma := 0xE4 }

/-- CFG-B of 00_scope.md R7. -/
def Config.cfgB : Config := { cap := 32, headroom := 4, micRsvd := 4, pidCsma := 0xE4 }

/-- The arbitrary 8-bit value of the `n`-th draw (00_scope.md R11, log 7). -/
opaque Config.any8 : Nat → BitVec 8

/-- The arbitrary 16-bit value of the `n`-th draw (00_scope.md R11, log 7). -/
opaque Config.any16 : Nat → BitVec 16

/-- The arbitrary 64-bit value of the `n`-th draw (00_scope.md R11, log 7). -/
opaque Config.any64 : Nat → BitVec 64

/-- What the byte at an address holds when nothing has written it since the `epoch`-th reset: unspecified, and the
same at every reading (20_memory.md R70, 93_implementation_defined.md U2, log 6). -/
opaque Config.unwrittenByte (epoch addr : Nat) : BitVec 8

end Sys2Proof
end

