-- ==== Sys2Proof/Syntax.lean ====
section
/-! DEFINITION. The operations of the codec, one constructor per row of spec/opcode_table.json, the port words that
request them (30_encoding.md R106, R109, R110), and what the host can do to the block. -/

namespace Sys2Proof

/-- One operation (00_scope.md R13), with the operands its rule names and none of the ignored fields
(30_encoding.md R106). `len` of `NEW_RX` and `SET_PAYLD` is the length of the data string (log 12). -/
inductive Instr where
  /-- `DISCARD` (40_lifecycle.md R130). -/
  | discard
  /-- `NEW_TX` (40_lifecycle.md R131). -/
  | newTx
  /-- `NEW_RX len, data` (40_lifecycle.md R132). -/
  | newRx (data : List Byte)
  /-- `PARSE` (43_parser.md R180). -/
  | parse
  /-- `SET_PROTOCOL id` (41_builder_header.md R141). -/
  | setProtocol (id : Byte)
  /-- `SET_NET_ID id` (41_builder_header.md R142). -/
  | setNetId (id : Half)
  /-- `SET_DST_SHORT a` (41_builder_header.md R143). -/
  | setDstShort (addr : Half)
  /-- `SET_DST_LONG a` (41_builder_header.md R144). -/
  | setDstLong (addr : Long)
  /-- `SET_SRC_SHORT a` (41_builder_header.md R145). -/
  | setSrcShort (addr : Half)
  /-- `SET_SRC_LONG a` (41_builder_header.md R146). -/
  | setSrcLong (addr : Long)
  /-- `SET_PAYLD len, data` (42_builder_payload_trailer.md R161). -/
  | setPayld (data : List Byte)
  /-- `SET_PAYLD_SZ len` (42_builder_payload_trailer.md R162). -/
  | setPayldSz (len : Half)
  /-- `SET_MHOP_SHORT hops, a` (42_builder_payload_trailer.md R164). -/
  | setMhopShort (hops : Byte) (addr : Half)
  /-- `SET_MHOP_LONG hops, a` (42_builder_payload_trailer.md R165). -/
  | setMhopLong (hops : Byte) (addr : Long)
  /-- `SET_MIC`, reserved (42_builder_payload_trailer.md R166). -/
  | setMic
  /-- The unassigned opcode `0xF` (30_encoding.md R113). -/
  | unassignedF
  /-- `BUF_RD addr` (44_access.md R200). -/
  | bufRd (addr : Half)
  /-- `BUF_WR addr, b` (44_access.md R201). -/
  | bufWr (addr : Half) (b : Byte)
  /-- `REG_RD idx` (44_access.md R203). -/
  | regRd (idx : BitVec 6)
deriving DecidableEq, Repr

/-- A request on one of the three ports: its word, and for the command port the byte string delivered with it. -/
inductive Request where
  /-- The command word `CW` and the stream `data` (30_encoding.md R106). -/
  | command (cw : BitVec 92) (data : List Byte)
  /-- The buffer port word `BW` (30_encoding.md R109). -/
  | buffer (bw : BitVec 25)
  /-- The register port word `RW` (30_encoding.md R110). -/
  | register (rw : BitVec 6)
deriving DecidableEq, Repr

/-- What the host can do between operations (70_reset_and_hazards.md R250, R262, R263). -/
inductive Input where
  /-- A request on a port. -/
  | request (r : Request)
  /-- The `RESET` event (70_reset_and_hazards.md R250, log 11). -/
  | reset
deriving DecidableEq, Repr

/-- The 28 registers the register port reads, in the order of their numbers (10_state.md R21). -/
inductive Reg where
  | mode | stage | valid | fsz | pid | fctl | netid | dst | src | hops | txaddr
  | netidOff | dstOff | srcOff | ieOff | ieSz | ieh | payldOff | payldSz | mhopOff | micOff | micSz
  | remain | cfgCap | cfgHeadroom | cfgMicRsvd | cfgPid | payldPtr
deriving DecidableEq, Repr

end Sys2Proof
end

