-- ==== Sys2Proof/WellFormed.lean ====
section
/-! DEFINITION. Which operations have a port word. Every operand but a data string fits its field by its type; a
data string must have a length that the 16-bit field `len` can hold (30_encoding.md R106). -/

namespace Sys2Proof

/-- The instruction can be requested: its data string, if it has one, is shorter than 2^16 bytes (R106). -/
def Instr.wellFormed : Instr → Bool
  | .newRx data => decide (data.length < 2 ^ 16)
  | .setPayld data => decide (data.length < 2 ^ 16)
  | .discard => true
  | .newTx => true
  | .parse => true
  | .setProtocol _ => true
  | .setNetId _ => true
  | .setDstShort _ => true
  | .setDstLong _ => true
  | .setSrcShort _ => true
  | .setSrcLong _ => true
  | .setPayldSz _ => true
  | .setMhopShort _ _ => true
  | .setMhopLong _ _ => true
  | .setMic => true
  | .unassignedF => true
  | .bufRd _ => true
  | .bufWr _ _ => true
  | .regRd _ => true

end Sys2Proof
end

