-- ==== Sys2Proof/Decode.lean ====
section
/-! DEFINITION. From port words to operations and back (30_encoding.md R106 to R113). The decoder is total on every
word of every port; it refuses, by name, only what is no request of the spec. -/

namespace Sys2Proof

/-- Why a request is no request of the spec. -/
inductive DecodeError where
  /-- `NEW_RX` or `SET_PAYLD` came with a data string that is not exactly `len` bytes (R106, log 8). -/
  | dataLength (len got : Nat)
  /-- A number has bits above the port's word (R106, R109, R110, log 14). -/
  | wordTooWide (width : Nat)
deriving DecidableEq, Repr

/-- `CW[91:88]`, the operation code (R106). -/
def cwOp (cw : BitVec 92) : BitVec 4 := cw.extractLsb' 88 4
/-- `CW[87:80]`, the hop count (R106). -/
def cwHops (cw : BitVec 92) : Byte := cw.extractLsb' 80 8
/-- `CW[79:64]`, the byte count (R106). -/
def cwLen (cw : BitVec 92) : Half := cw.extractLsb' 64 16
/-- `CW[63:0]`, the identifier or address operand (R106). -/
def cwArg (cw : BitVec 92) : Long := cw.extractLsb' 0 64
/-- `BW[24]`, 1 for a write (R109). -/
def bwWe (bw : BitVec 25) : BitVec 1 := bw.extractLsb' 24 1
/-- `BW[23:8]`, the absolute buffer address (R109). -/
def bwAddr (bw : BitVec 25) : Half := bw.extractLsb' 8 16
/-- `BW[7:0]`, the byte to write (R109). -/
def bwData (bw : BitVec 25) : Byte := bw.extractLsb' 0 8

/-- An operation that takes the data string: it must be exactly `len` bytes (R106). -/
def withData (len : Half) (data : List Byte) (mk : List Byte → Instr) : Except DecodeError Instr :=
  if data.length = len.toNat then .ok (mk data) else .error (.dataLength len.toNat data.length)

/-- The command port (R106, R107, R108). Operands come from the low bits of `arg`, unused fields are ignored. -/
def decodeCommand (cw : BitVec 92) (data : List Byte) : Except DecodeError Instr :=
  match (cwOp cw).toNat with
  | 0x0 => .ok .discard
  | 0x1 => .ok .newTx
  | 0x2 => withData (cwLen cw) data .newRx
  | 0x3 => .ok .parse
  | 0x4 => .ok (.setProtocol ((cwArg cw).extractLsb' 0 8))
  | 0x5 => .ok (.setNetId ((cwArg cw).extractLsb' 0 16))
  | 0x6 => .ok (.setDstShort ((cwArg cw).extractLsb' 0 16))
  | 0x7 => .ok (.setDstLong (cwArg cw))
  | 0x8 => .ok (.setSrcShort ((cwArg cw).extractLsb' 0 16))
  | 0x9 => .ok (.setSrcLong (cwArg cw))
  | 0xA => withData (cwLen cw) data .setPayld
  | 0xB => .ok (.setPayldSz (cwLen cw))
  | 0xC => .ok (.setMhopShort (cwHops cw) ((cwArg cw).extractLsb' 0 16))
  | 0xD => .ok (.setMhopLong (cwHops cw) (cwArg cw))
  | 0xE => .ok .setMic
  | _ => .ok .unassignedF   -- the code has 4 bits: this is 0xF (R113)

/-- The buffer port (R109). -/
def decodeBuffer (bw : BitVec 25) : Instr :=
  if bwWe bw = 1 then .bufWr (bwAddr bw) (bwData bw) else .bufRd (bwAddr bw)

/-- The operation a request asks for (R106, R109, R110). -/
def decode : Request → Except DecodeError Instr
  | .command cw data => decodeCommand cw data
  | .buffer bw => .ok (decodeBuffer bw)
  | .register rw => .ok (.regRd rw)

/-! ### The encoder -/

/-- A command word from its four fields (R106). -/
def mkCW (op : BitVec 4) (hops : Byte) (len : Half) (arg : Long) : BitVec 92 := op ++ hops ++ len ++ arg

/-- A buffer port word from its three fields (R109). -/
def mkBW (we : BitVec 1) (addr : Half) (wdata : Byte) : BitVec 25 := we ++ addr ++ wdata

/-- The request that asks for an operation, ignored fields 0 (R106, R107, R109, R110). -/
def encode : Instr → Request
  | .discard => .command (mkCW 0x0 0 0 0) []
  | .newTx => .command (mkCW 0x1 0 0 0) []
  | .newRx data => .command (mkCW 0x2 0 (BitVec.ofNat 16 data.length) 0) data
  | .parse => .command (mkCW 0x3 0 0 0) []
  | .setProtocol id => .command (mkCW 0x4 0 0 (id.setWidth 64)) []
  | .setNetId id => .command (mkCW 0x5 0 0 (id.setWidth 64)) []
  | .setDstShort a => .command (mkCW 0x6 0 0 (a.setWidth 64)) []
  | .setDstLong a => .command (mkCW 0x7 0 0 a) []
  | .setSrcShort a => .command (mkCW 0x8 0 0 (a.setWidth 64)) []
  | .setSrcLong a => .command (mkCW 0x9 0 0 a) []
  | .setPayld data => .command (mkCW 0xA 0 (BitVec.ofNat 16 data.length) 0) data
  | .setPayldSz len => .command (mkCW 0xB 0 len 0) []
  | .setMhopShort hops a => .command (mkCW 0xC hops 0 (a.setWidth 64)) []
  | .setMhopLong hops a => .command (mkCW 0xD hops 0 a) []
  | .setMic => .command (mkCW 0xE 0 0 0) []
  | .unassignedF => .command (mkCW 0xF 0 0 0) []
  | .bufRd addr => .buffer (mkBW 0 addr 0)
  | .bufWr addr b => .buffer (mkBW 1 addr b)
  | .regRd idx => .register idx

/-! ### The opcode table's numbering -/

/-- The request whose port word is the number `w`, on the port whose word the opcode table gives `nbits` bits (in
whole bytes: 8 for RW, 32 for BW, 96 for CW). The data string of a command is `len` bytes of zero (log 14). -/
def requestOfTableWord (nbits w : Nat) : Except DecodeError Request :=
  if nbits ≤ 8 then
    if w < 2 ^ 6 then .ok (.register (BitVec.ofNat 6 w)) else .error (.wordTooWide 6)
  else if nbits ≤ 32 then
    if w < 2 ^ 25 then .ok (.buffer (BitVec.ofNat 25 w)) else .error (.wordTooWide 25)
  else if w < 2 ^ 92 then
    .ok (.command (BitVec.ofNat 92 w) (List.replicate (cwLen (BitVec.ofNat 92 w)).toNat 0))
  else .error (.wordTooWide 92)

/-- The instruction the decoder reads from a word of spec/opcode_table.json; none where it refuses. -/
def decodeTableWord (nbits w : Nat) : Option Instr :=
  match requestOfTableWord nbits w with
  | .ok r =>
    match decode r with
    | .ok i => some i
    | .error _ => none
  | .error _ => none

end Sys2Proof
end

