-- ==== Sys2Proof/Machine/State.lean ====
section
/-! DEFINITION. The state of the codec (10_state.md): registers 0 to 21, the configuration registers, the frame
buffer, and the model's own fields (the host's pending inputs, the last response, two counters of free values). -/

namespace Sys2Proof.Machine

/-- Register `MODE` (10_state.md R26); its code 3 is never held (R21, log 13). -/
inductive Mode where
  | idle | tx | rx
deriving DecidableEq, Repr

/-- Register `STAGE` (10_state.md R23); its code 7 is never held (R21, log 13). -/
inductive Stage where
  | empty | proto | netid | dst | src | payld | mhop
deriving DecidableEq, Repr

/-- Why an operation fails (60_exceptions.md R221). A label, visible on no port. -/
inductive Cause where
  | capacity | order | mode | short | pid | addrCode | ieCode | micCode | overrun | reserved | opcode | range | reg
deriving DecidableEq, Repr

/-- The read data of a response (30_encoding.md R106, R109, R110). -/
inductive RData where
  /-- No read data: a command, or a buffer write. -/
  | none
  /-- `rdata[7:0]` of the buffer port. -/
  | byte (b : Byte)
  /-- `rdata[63:0]` of the register port. -/
  | word (v : Long)
deriving DecidableEq, Repr

/-- The response to one operation: the bit `ok`, the read data, and the label of a failure, which is the model's own
annotation and visible on no port (60_exceptions.md R220, R221, log 3). -/
structure Response where
  ok : Bool
  rdata : RData
  cause : Option Cause
deriving DecidableEq, Repr

/-- The field descriptors, registers 4 to 21 (10_state.md R21). -/
structure Desc where
  pid : Byte
  fctl : Byte
  netid : Half
  dst : Long
  src : Long
  hops : Byte
  txaddr : Long
  netidOff : Half
  dstOff : Half
  srcOff : Half
  ieOff : Half
  ieSz : Half
  ieh : Byte
  payldOff : Half
  payldSz : Half
  mhopOff : Half
  micOff : Half
  micSz : Half
deriving DecidableEq, Repr

/-- The descriptors' reset value: all 0 (10_state.md R21, R39). -/
def Desc.zero : Desc :=
  { pid := 0, fctl := 0, netid := 0, dst := 0, src := 0, hops := 0, txaddr := 0, netidOff := 0, dstOff := 0,
    srcOff := 0, ieOff := 0, ieSz := 0, ieh := 0, payldOff := 0, payldSz := 0, mhopOff := 0, micOff := 0, micSz := 0 }

/-- The bytes of `BUF` written since reset, by address; an address not listed has not been written (log 6). -/
abbrev Memory := List Host.Cell

/-- The machine (10_state.md R20), with the model's own fields `inputs`, `resp`, `epoch`, `draws`. -/
structure State where
  /-- Registers 23 to 26, the parameters (00_scope.md R5); no operation writes them. -/
  cfg : Config
  /-- Register 0, `MODE`. -/
  mode : Mode
  /-- Register 1, `STAGE`. -/
  stage : Stage
  /-- Register 2, `VALID`. -/
  valid : Bool
  /-- Register 3, `FSZ`. -/
  fsz : Half
  /-- Registers 4 to 21. -/
  desc : Desc
  /-- `BUF` (10_state.md R36). -/
  buf : Memory
  /-- The model's: what the host will still do, oldest first (log 1). -/
  inputs : List Input
  /-- The model's: the response to the last operation (log 2). -/
  resp : Option Response
  /-- The model's: how many resets there have been, the index of the unwritten bytes (log 6, log 11). -/
  epoch : Nat
  /-- The model's: how many free values have been drawn (log 7). -/
  draws : Nat
deriving DecidableEq, Repr

/-- The reasons a step stops with a fault. -/
inductive Fault where
  /-- Raised by `PARSE` in a state whose frame reaches beyond the buffer (`HEADROOM + FSZ > CAP`), which no run
  reaches (10_state.md R22): the byte to read does not exist. Safe (log 10). -/
  | frameOutsideBuffer
deriving DecidableEq, Repr

/-- The reasons a step refuses. -/
inductive Refusal where
  /-- Raised by an arm of `exec` whose instruction has no meaning yet; no arm does. Safe. -/
  | notModelled (mnemonic : String)
  /-- Raised by `step` for a request that is no request of the spec (log 8). Safe. -/
  | undecodable (e : DecodeError)
  /-- Raised by `step` under parameters that are no configuration of this hardware (00_scope.md R6, log 9). Safe. -/
  | illFormedConfig
deriving DecidableEq, Repr

/-- The machine right after reset with a given configuration (10_state.md R39, 70_reset_and_hazards.md R250): every
register 0, no buffer byte written. -/
def State.resetWith (c : Config) : State :=
  { cfg := c, mode := .idle, stage := .empty, valid := false, fsz := 0, desc := Desc.zero, buf := [],
    inputs := [], resp := none, epoch := 0, draws := 0 }

/-- The machine right after reset, under the spec's reference configuration CFG-A (DESIGN CHOICE, log 4). -/
def State.reset : State := State.resetWith Config.cfgA

end Sys2Proof.Machine
end

