-- ==== Sys2Proof/Machine/Operands.lean ====
section
/-! DEFINITION. Operand forms: the size helpers of 00_scope.md R12, byte strings of values (R10, 20_memory.md R62),
register numbers (10_state.md R21), stage numbers and the stage law (R23, R24), the tagged address (R30). -/

namespace Sys2Proof.Machine

/-! ### Sizes (00_scope.md R12) -/

/-- `nsz(N)`: size of the Network-Id field. -/
def nsz (n : Bool) : Nat := if n then 2 else 0

/-- `asz(m)`: address size of a 2-bit mode code; code 3 is unrecognized. -/
def asz (m : BitVec 2) : Option Nat :=
  if m = 0 then some 0 else if m = 1 then some 2 else if m = 2 then some 8 else none

/-- `msz(m)`: size of the multi-hop trailer; code 3 is unrecognized. -/
def msz (m : BitVec 2) : Option Nat :=
  if m = 0 then some 0 else if m = 1 then some 3 else if m = 2 then some 9 else none

/-- `iesz(c)`: size of the IE region, `1 + 2*c`; code 3 is unrecognized. -/
def iesz (c : BitVec 2) : Option Nat := if c = 3 then none else some (1 + 2 * c.toNat)

/-- `micsz(c)`: size of the integrity field; code 3 is unrecognized. -/
def micsz (c : BitVec 2) : Option Nat :=
  if c = 0 then some 0 else if c = 1 then some 4 else if c = 2 then some 8 else none

/-! ### Byte order (00_scope.md R10, 20_memory.md R62) -/

/-- The `n` bytes of a value, bits 7:0 first. -/
def leBytes (n : Nat) (v : Long) : List Byte := (List.range n).map fun i => v.extractLsb' (8 * i) 8

/-- The value of a byte string, the first byte in bits 7:0. -/
def leValue : List Byte → Nat
  | [] => 0
  | b :: bs => b.toNat + 256 * leValue bs

/-! ### The address mux (30_encoding.md R95, 10_state.md R30) -/

/-- The tagged variant of 10_state.md R30. -/
inductive Address where
  | absent
  | short (a : Half)
  | long (a : Long)
deriving DecidableEq, Repr

/-- The address that a mode code and a 64-bit value register stand for; none for code 3 (44_access.md R204). -/
def addressOf (m : BitVec 2) (v : Long) : Option Address :=
  if m = 0 then some .absent
  else if m = 1 then some (.short (v.setWidth 16))
  else if m = 2 then some (.long v)
  else none

/-! ### Modes, stages and register numbers -/

/-- The code register `MODE` reads as (10_state.md R26). -/
def modeCode : Mode → Nat
  | .idle => 0
  | .tx => 1
  | .rx => 2

/-- The code register `STAGE` reads as (10_state.md R23). -/
def stageCode : Stage → Nat
  | .empty => 0
  | .proto => 1
  | .netid => 2
  | .dst => 3
  | .src => 4
  | .payld => 5
  | .mhop => 6

/-- `lo <= STAGE <= hi`, the form of every condition of the stage law (10_state.md R24). -/
def stageIn (lo hi : Nat) (k : Stage) : Bool := decide (lo ≤ stageCode k ∧ stageCode k ≤ hi)

/-- The registers in the order of their numbers (10_state.md R21). -/
def regList : List Reg :=
  [.mode, .stage, .valid, .fsz, .pid, .fctl, .netid, .dst, .src, .hops, .txaddr, .netidOff, .dstOff, .srcOff,
   .ieOff, .ieSz, .ieh, .payldOff, .payldSz, .mhopOff, .micOff, .micSz, .remain, .cfgCap, .cfgHeadroom,
   .cfgMicRsvd, .cfgPid, .payldPtr]

/-- The register of a number; none for the reserved numbers 28 to 63 (30_encoding.md R113). -/
def regOfIdx (idx : BitVec 6) : Option Reg := regList[idx.toNat]?

end Sys2Proof.Machine
end

