-- ==== Sys2Proof/Machine/Flags.lean ====
section
/-! DEFINITION. The fields of the Frame-Control byte (10_state.md R28, 30_encoding.md R93) and of the IE header byte
(30_encoding.md R98), and the masks the setters OR into Frame-Control (41_builder_header.md R140). The only status
flag, `VALID`, is a field of the state (10_state.md R27). -/

namespace Sys2Proof.Machine

/-- `FCTL[7]`, Network-Id present. -/
def fctlN (f : Byte) : Bool := f.getLsbD 7
/-- `FCTL[6]`, IE region present. -/
def fctlI (f : Byte) : Bool := f.getLsbD 6
/-- `FCTL[5:4]`, destination address mode. -/
def fctlDam (f : Byte) : BitVec 2 := f.extractLsb' 4 2
/-- `FCTL[3:2]`, source address mode. -/
def fctlSam (f : Byte) : BitVec 2 := f.extractLsb' 2 2
/-- `FCTL[1:0]`, multi-hop trailer mode. -/
def fctlMam (f : Byte) : BitVec 2 := f.extractLsb' 0 2

/-- `IEH[7:6]`, the IE size code. -/
def iehIsc (h : Byte) : BitVec 2 := h.extractLsb' 6 2
/-- `IEH[5:4]`, the MIC size code. -/
def iehMsc (h : Byte) : BitVec 2 := h.extractLsb' 4 2
/-- `IEH[3:0]`, not interpreted. -/
def iehType (h : Byte) : BitVec 4 := h.extractLsb' 0 4

/-- `N <- 1` (R142). -/
def maskN : Byte := 0x80
/-- `DAM <- 1` (R143). -/
def maskDstShort : Byte := 0x10
/-- `DAM <- 2` (R144). -/
def maskDstLong : Byte := 0x20
/-- `SAM <- 1` (R145). -/
def maskSrcShort : Byte := 0x04
/-- `SAM <- 2` (R146). -/
def maskSrcLong : Byte := 0x08
/-- `MAM <- 1` (R164). -/
def maskMhopShort : Byte := 0x01
/-- `MAM <- 2` (R165). -/
def maskMhopLong : Byte := 0x02

end Sys2Proof.Machine
end

