-- ==== Sys2Proof/Machine/Ops.lean ====
section
/-! DEFINITION. The named operations over registers and memory that every meaning is written with: the buffer
(20_memory.md), the responses and the one way an operation fails (60_exceptions.md R220, R228), the common checks of
the builder (41_builder_header.md R140), and the events of the host interface. -/

namespace Sys2Proof.Machine

/-! ### Parameters (00_scope.md R5, R6) -/

/-- `1 <= CAP <= 65535`, `HEADROOM <= CAP`, `MIC_RSVD` in 0, 4, 8 (00_scope.md R6, 70_reset_and_hazards.md R252);
`CAP <= 65535` by its width. -/
def wellFormedConfig (c : Config) : Bool :=
  decide (1 ≤ c.cap.toNat ∧ c.headroom.toNat ≤ c.cap.toNat ∧
    (c.micRsvd = 0 ∨ c.micRsvd = 4 ∨ c.micRsvd = 8))

/-- `CAP`. -/
def State.cap (s : State) : Nat := s.cfg.cap.toNat
/-- `HEADROOM`. -/
def State.headroom (s : State) : Nat := s.cfg.headroom.toNat
/-- `MIC_RSVD`. -/
def State.rsvd (s : State) : Nat := s.cfg.micRsvd.toNat
/-- `FCAP = CAP - HEADROOM`, the largest frame the buffer can hold (00_scope.md R5). -/
def State.fcap (s : State) : Nat := s.cap - s.headroom

/-- The configuration is usable for building: the minimum header fits (00_scope.md R6). -/
def usableConfig (c : Config) : Bool :=
  wellFormedConfig c && decide (2 + c.micRsvd.toNat ≤ c.cap.toNat - c.headroom.toNat)

/-! ### The buffer (20_memory.md) -/

/-- The byte written last at an address since reset, if any (R72). -/
def Memory.read? : Memory → Nat → Option Byte
  | [], _ => none
  | (x, b) :: m, a => if a = x then some b else Memory.read? m a

/-- One byte stored, the list kept in rising order of addresses. -/
def Memory.write : Memory → Nat → Byte → Memory
  | [], a, b => [(a, b)]
  | (x, c) :: m, a, b =>
    if a < x then (a, b) :: (x, c) :: m
    else if a = x then (a, b) :: m
    else (x, c) :: Memory.write m a b

/-- A byte string stored at consecutive addresses, in increasing address order (R62). -/
def Memory.writeList : Memory → Nat → List Byte → Memory
  | m, _, [] => m
  | m, a, b :: bs => Memory.writeList (Memory.write m a b) (a + 1) bs

/-- The canonical form: addresses strictly rising. An unlisted address holds no written byte, so no listed byte can
equal what an unlisted one holds (log 6). -/
abbrev Memory.wf (m : Memory) : Prop := m.Pairwise fun x y => x.1 < y.1

/-- `BUF[a]`: the byte written last, or the unspecified byte of an address not written since reset (R70). -/
def State.bufByte (s : State) (a : Nat) : Byte :=
  (Memory.read? s.buf a).getD (Config.unwrittenByte s.epoch a)

/-- The byte at a frame offset: frame offset `o` is buffer address `HEADROOM + o` (R64). -/
def State.frByte (s : State) (o : Nat) : Byte := s.bufByte (s.headroom + o)

/-- `FrBytes(o, n)` (00_scope.md R10). -/
def State.frBytes (s : State) (o n : Nat) : List Byte := (List.range n).map fun i => s.frByte (o + i)

/-- `zext_64(FrRead(o, n))`, little-endian (00_scope.md R10, 20_memory.md R62). -/
def State.frRead (s : State) (o n : Nat) : Long := BitVec.ofNat 64 (leValue (s.frBytes o n))

/-- The built or received frame, `FrBytes(0, FSZ)` (20_memory.md R76). -/
def State.frameBytes (s : State) : List Byte := s.frBytes 0 s.fsz.toNat

/-- Bytes stored from a buffer address on. -/
def State.store (s : State) (a : Nat) (bs : List Byte) : State := { s with buf := Memory.writeList s.buf a bs }

/-- Bytes stored from a frame offset on: `FrWrite` (00_scope.md R10). -/
def State.frWrite (s : State) (o : Nat) (bs : List Byte) : State := s.store (s.headroom + o) bs

/-! ### Registers -/

/-- `FSZ <- n`; the rules keep `n <= CAP <= 65535` (00_scope.md R9, log 16). -/
def State.setFsz (s : State) (n : Nat) : State := { s with fsz := BitVec.ofNat 16 n }
/-- `STAGE <- k`. -/
def State.setStage (s : State) (k : Stage) : State := { s with stage := k }
/-- `MODE <- m`. -/
def State.setMode (s : State) (m : Mode) : State := { s with mode := m }
/-- `VALID <- v`. -/
def State.setValid (s : State) (v : Bool) : State := { s with valid := v }
/-- Descriptor registers written. -/
def State.setDesc (s : State) (d : Desc) : State := { s with desc := d }
/-- `k` free values have been drawn (log 7). -/
def State.advanceDraws (s : State) (k : Nat) : State := { s with draws := s.draws + k }

/-- `ClearRegs()`: every register 0 to 21 takes its reset value; `BUF` is not changed (40_lifecycle.md R130). -/
def State.clearRegs (s : State) : State :=
  { s with mode := .idle, stage := .empty, valid := false, fsz := 0, desc := Desc.zero }

/-- `OrFctl(mask)`: the shadow register, and the byte at frame offset 1 from it (41_builder_header.md R140). -/
def State.orFctl (s : State) (mask : Byte) : State :=
  (s.setDesc { s.desc with fctl := s.desc.fctl ||| mask }).frWrite 1 [s.desc.fctl ||| mask]

/-- `TailOffsets(k)` on the descriptors, for the new `FSZ` (10_state.md R25). -/
def Desc.tail (d : Desc) (fsz : Half) : Stage → Desc
  | .empty => d
  | .proto => { d with netidOff := fsz, dstOff := fsz, srcOff := fsz, ieOff := fsz, payldOff := fsz,
                       mhopOff := fsz, micOff := fsz }
  | .netid => { d with dstOff := fsz, srcOff := fsz, ieOff := fsz, payldOff := fsz, mhopOff := fsz, micOff := fsz }
  | .dst => { d with srcOff := fsz, ieOff := fsz, payldOff := fsz, mhopOff := fsz, micOff := fsz }
  | .src => { d with ieOff := fsz, payldOff := fsz, mhopOff := fsz, micOff := fsz }
  | .payld => { d with mhopOff := fsz, micOff := fsz }
  | .mhop => { d with micOff := fsz }

/-- `STAGE <- k`, then `TailOffsets(k)`: the end of every successful setter (10_state.md R25). -/
def State.endField (s : State) (k : Stage) : State := (s.setStage k).setDesc (s.desc.tail s.fsz k)

/-- The next field: its bytes written at frame offset `FSZ`, its registers `d` recorded, `FSZ` advanced
(41_builder_header.md R140). -/
def State.appendField (s : State) (d : Desc) (bs : List Byte) : State :=
  ((s.frWrite s.fsz.toNat bs).setDesc d).setFsz (s.fsz.toNat + bs.length)

/-- `REMAIN`, the bytes a setter can still append (10_state.md R34). -/
def State.remain (s : State) : Nat := if s.mode = .tx then s.fcap - s.rsvd - s.fsz.toNat else 0

/-- `PAYLD_PTR`, the buffer address of the payload (10_state.md R34). -/
def State.payldPtr (s : State) : Nat := s.headroom + s.desc.payldOff.toNat

/-! ### Responses and failures (00_scope.md R11, 60_exceptions.md R220, R228) -/

/-- The outcome of an operation. -/
abbrev Result := Host.Outcome State Fault Refusal

/-- The response on the operation's port. -/
def State.respond (s : State) (r : Response) : State := { s with resp := some r }

/-- `ok = 1` with no read data. -/
def okResponse : Response := { ok := true, rdata := .none, cause := none }

/-- `ok = 0` with no read data. -/
def failResponse (c : Cause) : Response := { ok := false, rdata := .none, cause := some c }

/-- `done`: the operation ends with `ok = 1` (00_scope.md R11). -/
def complete (s : State) : Result := .next (s.respond okResponse)

/-- `raise Fail(c)`: `ok = 0`, no register and no buffer byte changed (00_scope.md R11). The block is at once ready for
the next operation: nothing is saved and nothing is to return from (60_exceptions.md R228, R229). -/
def raiseFail (c : Cause) (s : State) : Result := .next (s.respond (failResponse c))

/-- The arbitrary descriptors of a failed `PARSE`, each register its own draw (43_parser.md R188). -/
def arbitraryDesc (n : Nat) : Desc :=
  { pid := Config.any8 n, fctl := Config.any8 (n + 1), ieh := Config.any8 (n + 2), hops := Config.any8 (n + 3),
    netid := Config.any16 (n + 4), dst := Config.any64 (n + 5), src := Config.any64 (n + 6),
    txaddr := Config.any64 (n + 7), netidOff := Config.any16 (n + 8), dstOff := Config.any16 (n + 9),
    srcOff := Config.any16 (n + 10), ieOff := Config.any16 (n + 11), ieSz := Config.any16 (n + 12),
    payldOff := Config.any16 (n + 13), payldSz := Config.any16 (n + 14), mhopOff := Config.any16 (n + 15),
    micOff := Config.any16 (n + 16), micSz := Config.any16 (n + 17) }

/-- `FormatFail(c)`: `VALID <- 0`, arbitrary descriptors, `ok = 0` (43_parser.md R188). -/
def formatFail (c : Cause) (s : State) : Result :=
  .next ((((s.setValid false).setDesc (arbitraryDesc s.draws)).advanceDraws 18).respond (failResponse c))

/-! ### The builder's common checks (41_builder_header.md R140) -/

/-- The first check that fails, in the order of R140 and 60_exceptions.md R227: mode, the operation's own stage law,
then `size + MIC_RSVD <= FCAP` for the frame size after the operation, over the naturals (20_memory.md R66). -/
def builderCheck (legal : Bool) (size : Nat) (s : State) : Option Cause :=
  if s.mode ≠ .tx then some .mode
  else if legal = false then some .order
  else if s.fcap < size + s.rsvd then some .capacity
  else none

/-- A setter: all checks first, then the writes `s'` and `done` (41_builder_header.md R140). -/
def runSetter (check : Option Cause) (s s' : State) : Result :=
  match check with
  | some c => raiseFail c s
  | none => complete s'

/-! ### The host interface (70_reset_and_hazards.md R250, R262) -/

/-- The `RESET` event: registers cleared, every buffer byte unspecified anew, parameters kept (R250). The host's later
inputs still come, and no response is left (log 11). -/
def State.takeReset (s : State) : State :=
  { s.clearRegs with buf := [], resp := none, epoch := s.epoch + 1 }

/-- The host's next input is taken off the list. -/
def State.dropInput (s : State) : State := { s with inputs := s.inputs.tail }

end Sys2Proof.Machine
end

