-- ==== Sys2Proof/Machine/Access.lean ====
section
/-! DEFINITION. The buffer port and the register port (44_access.md). -/

namespace Sys2Proof.Machine

/-- `BUF_RD addr` (R200): no `HEADROOM` is added; on failure `rdata` is arbitrary. -/
def execBufRd (addr : Half) (s : State) : Result :=
  if s.cap ≤ addr.toNat then
    .next ((s.advanceDraws 1).respond
      { ok := false, rdata := .byte (Config.any8 s.draws), cause := some .range })
  else .next (s.respond { ok := true, rdata := .byte (s.bufByte addr.toNat), cause := none })

/-- `BUF_WR addr, b` (R201): no register changes. -/
def execBufWr (addr : Half) (b : Byte) (s : State) : Result :=
  if s.cap ≤ addr.toNat then raiseFail .range s
  else complete (s.store addr.toNat [b])

/-- The value of a register, zero-extended to 64 bits (R203, 10_state.md R21, R34). -/
def regValue (s : State) : Reg → Long
  | .mode => BitVec.ofNat 64 (modeCode s.mode)
  | .stage => BitVec.ofNat 64 (stageCode s.stage)
  | .valid => if s.valid then 1 else 0
  | .fsz => s.fsz.setWidth 64
  | .pid => s.desc.pid.setWidth 64
  | .fctl => s.desc.fctl.setWidth 64
  | .netid => s.desc.netid.setWidth 64
  | .dst => s.desc.dst
  | .src => s.desc.src
  | .hops => s.desc.hops.setWidth 64
  | .txaddr => s.desc.txaddr
  | .netidOff => s.desc.netidOff.setWidth 64
  | .dstOff => s.desc.dstOff.setWidth 64
  | .srcOff => s.desc.srcOff.setWidth 64
  | .ieOff => s.desc.ieOff.setWidth 64
  | .ieSz => s.desc.ieSz.setWidth 64
  | .ieh => s.desc.ieh.setWidth 64
  | .payldOff => s.desc.payldOff.setWidth 64
  | .payldSz => s.desc.payldSz.setWidth 64
  | .mhopOff => s.desc.mhopOff.setWidth 64
  | .micOff => s.desc.micOff.setWidth 64
  | .micSz => s.desc.micSz.setWidth 64
  | .remain => BitVec.ofNat 64 s.remain
  | .cfgCap => s.cfg.cap.setWidth 64
  | .cfgHeadroom => s.cfg.headroom.setWidth 64
  | .cfgMicRsvd => s.cfg.micRsvd.setWidth 64
  | .cfgPid => s.cfg.pidCsma.setWidth 64
  | .payldPtr => BitVec.ofNat 64 s.payldPtr

/-- `REG_RD idx` (R203): the reserved numbers 28 to 63 fail with arbitrary `rdata`. -/
def execRegRd (idx : BitVec 6) (s : State) : Result :=
  match regOfIdx idx with
  | some r => .next (s.respond { ok := true, rdata := .word (regValue s r), cause := none })
  | none =>
    .next ((s.advanceDraws 1).respond
      { ok := false, rdata := .word (Config.any64 s.draws), cause := some .reg })

end Sys2Proof.Machine
end

