-- ==== Sys2Proof/Machine/BuilderHeader.lean ====
section
/-! DEFINITION. The builder's header fields and the address mux (41_builder_header.md). -/

namespace Sys2Proof.Machine

/-- `SET_PROTOCOL id` (R141): the Protocol-Id byte as given and a Frame-Control byte of 0. -/
def execSetProtocol (id : Byte) (s : State) : Result :=
  runSetter (builderCheck (stageIn 0 0 s.stage) 2 s) s
    ((((s.frWrite 0 [id, 0]).setDesc { s.desc with pid := id, fctl := 0 }).setFsz 2).endField .proto)

/-- `SET_NET_ID id` (R142). -/
def execSetNetId (id : Half) (s : State) : Result :=
  runSetter (builderCheck (stageIn 1 1 s.stage) (s.fsz.toNat + 2) s) s
    (((s.appendField { s.desc with netid := id, netidOff := s.fsz } (leBytes 2 (id.setWidth 64))).orFctl
      maskN).endField .netid)

/-- A destination address of `n` bytes (R143, R144). -/
def appendDst (n : Nat) (a : Long) (mask : Byte) (s : State) : Result :=
  runSetter (builderCheck (stageIn 1 2 s.stage) (s.fsz.toNat + n) s) s
    (((s.appendField { s.desc with dst := a, dstOff := s.fsz } (leBytes n a)).orFctl mask).endField .dst)

/-- A source address of `n` bytes (R145, R146). -/
def appendSrc (n : Nat) (a : Long) (mask : Byte) (s : State) : Result :=
  runSetter (builderCheck (stageIn 1 3 s.stage) (s.fsz.toNat + n) s) s
    (((s.appendField { s.desc with src := a, srcOff := s.fsz } (leBytes n a)).orFctl mask).endField .src)

/-- `SET_DST_SHORT a` (R143). -/
def execSetDstShort (a : Half) (s : State) : Result := appendDst 2 (a.setWidth 64) maskDstShort s

/-- `SET_DST_LONG a` (R144). -/
def execSetDstLong (a : Long) (s : State) : Result := appendDst 8 a maskDstLong s

/-- `SET_SRC_SHORT a` (R145). -/
def execSetSrcShort (a : Half) (s : State) : Result := appendSrc 2 (a.setWidth 64) maskSrcShort s

/-- `SET_SRC_LONG a` (R146). -/
def execSetSrcLong (a : Long) (s : State) : Result := appendSrc 8 a maskSrcLong s

end Sys2Proof.Machine
end

