-- ==== Sys2Proof/Machine/BuilderPayload.lean ====
section
/-! DEFINITION. The builder's payload, multi-hop trailer and reserved operations (42_builder_payload_trailer.md,
30_encoding.md R113). -/

namespace Sys2Proof.Machine

/-- `SET_PAYLD len, data` (R161), `len` being the length of `data`; `FCTL` and `IE_OFF` are not changed. -/
def execSetPayld (data : List Byte) (s : State) : Result :=
  runSetter (builderCheck (stageIn 1 4 s.stage) (s.fsz.toNat + data.length) s) s
    ((s.appendField { s.desc with payldOff := s.fsz, payldSz := BitVec.ofNat 16 data.length } data).endField .payld)

/-- `SET_PAYLD_SZ len` (R162): no byte is written; the size may be kept or grow, never shrink. -/
def execSetPayldSz (len : Half) (s : State) : Result :=
  runSetter
    (builderCheck (stageIn 1 5 s.stage && decide (s.desc.payldSz.toNat ≤ len.toNat))
      (s.desc.payldOff.toNat + len.toNat) s) s
    (((s.setDesc { s.desc with payldSz := len }).setFsz (s.desc.payldOff.toNat + len.toNat)).endField .payld)

/-- A trailer with a relay address of `n` bytes (R164, R165): the hop count byte first. -/
def appendMhop (n : Nat) (hops : Byte) (a : Long) (mask : Byte) (s : State) : Result :=
  runSetter (builderCheck (stageIn 1 5 s.stage) (s.fsz.toNat + (1 + n)) s) s
    (((s.appendField { s.desc with hops := hops, txaddr := a, mhopOff := s.fsz } (hops :: leBytes n a)).orFctl
      mask).endField .mhop)

/-- `SET_MHOP_SHORT hops, a` (R164). -/
def execSetMhopShort (hops : Byte) (a : Half) (s : State) : Result :=
  appendMhop 2 hops (a.setWidth 64) maskMhopShort s

/-- `SET_MHOP_LONG hops, a` (R165). -/
def execSetMhopLong (hops : Byte) (a : Long) (s : State) : Result := appendMhop 8 hops a maskMhopLong s

/-- `SET_MIC` (R166): fails in every mode and every stage, with no effect. -/
def execSetMic (s : State) : Result := raiseFail .reserved s

/-- The unassigned opcode `0xF` (30_encoding.md R113): fails in every mode, with no effect. -/
def execUnassignedF (s : State) : Result := raiseFail .opcode s

end Sys2Proof.Machine
end

