-- ==== Sys2Proof/Machine/Lifecycle.lean ====
section
/-! DEFINITION. The lifecycle operations `DISCARD`, `NEW_TX`, `NEW_RX` (40_lifecycle.md). -/

namespace Sys2Proof.Machine

/-- `DISCARD` (R130): legal in every mode; `BUF` is not changed. -/
def execDiscard (s : State) : Result := complete (s.clearRegs.setMode .idle)

/-- `NEW_TX` (R131): legal in every mode; `BUF` is not changed. -/
def execNewTx (s : State) : Result := complete (s.clearRegs.setMode .tx)

/-- `NEW_RX len, data` (R132), `len` being the length of `data`. -/
def execNewRx (data : List Byte) (s : State) : Result :=
  if s.fcap < data.length then raiseFail .capacity s
  else complete (((s.clearRegs.frWrite 0 data).setMode .rx).setFsz data.length)

end Sys2Proof.Machine
end

