-- ==== Sys2Proof/Machine/Parser.lean ====
section
/-! DEFINITION. `PARSE`, the parser and structure validator (43_parser.md). Every bound is checked before the read
it guards (90_conflicts.md C8); the checks stand in the order of R180. -/

namespace Sys2Proof.Machine

/-- Step 1 (R181): the Protocol-Id byte of a frame of `len` bytes. -/
def parsePid (s : State) (len : Nat) : Except Cause Byte :=
  if len < 1 then .error .short
  else if s.frByte 0 ≠ s.cfg.pidCsma then .error .pid
  else .ok (s.frByte 0)

/-- What the Frame-Control byte says: the byte, and the sizes of both addresses and of the trailer. -/
structure FctlInfo where
  fctl : Byte
  dstSz : Nat
  srcSz : Nat
  mhopSz : Nat
deriving DecidableEq, Repr

/-- Step 2 (R182): the Frame-Control byte and the three address mode codes. -/
def parseFctl (s : State) (len : Nat) : Except Cause FctlInfo :=
  if len < 2 then .error .short
  else
    match asz (fctlDam (s.frByte 1)), asz (fctlSam (s.frByte 1)), msz (fctlMam (s.frByte 1)) with
    | some d, some r, some m => .ok { fctl := s.frByte 1, dstSz := d, srcSz := r, mhopSz := m }
    | _, _, _ => .error .addrCode

/-- One header field of step 3 (R183), of `n` bytes at the cursor `c`: absent when `n` is 0, then its value is 0.
The answer is the value and the cursor after it. -/
def walkField (s : State) (len c n : Nat) : Except Cause (Long × Nat) :=
  if n = 0 then .ok (0, c)
  else if len < c + n then .error .overrun
  else .ok (s.frRead c n, c + n)

/-- What the IE region says: its header byte, its size and the size of the integrity field. -/
structure IeInfo where
  ieh : Byte
  ieSz : Nat
  micSz : Nat
deriving DecidableEq, Repr

/-- Step 4 (R184): the IE region at the cursor `c`, if present. -/
def parseIe (s : State) (len c : Nat) (present : Bool) : Except Cause IeInfo :=
  if present = false then .ok { ieh := 0, ieSz := 0, micSz := 0 }
  else if len < c + 1 then .error .overrun
  else
    match iesz (iehIsc (s.frByte c)) with
    | none => .error .ieCode
    | some z =>
      match micsz (iehMsc (s.frByte c)) with
      | none => .error .micCode
      | some m => if len < c + z then .error .overrun else .ok { ieh := s.frByte c, ieSz := z, micSz := m }

/-- What the trailer holds. -/
structure MhopInfo where
  hops : Byte
  txaddr : Long
deriving DecidableEq, Repr

/-- The trailer of `n` bytes at offset `o` (R185); absent when `n` is 0. -/
def readMhop (s : State) (o n : Nat) : MhopInfo :=
  if n = 0 then { hops := 0, txaddr := 0 } else { hops := s.frByte o, txaddr := s.frRead (o + 1) (n - 1) }

/-- Steps 1 to 5 (R180 to R185): the descriptors to commit, or the first failure. -/
def parseFrame (s : State) : Except Cause Desc := do
  let len := s.fsz.toNat
  let pid ← parsePid s len
  let f ← parseFctl s len
  let (netid, dstOff) ← walkField s len 2 (nsz (fctlN f.fctl))
  let (dst, srcOff) ← walkField s len dstOff f.dstSz
  let (src, ieOff) ← walkField s len srcOff f.srcSz
  let ie ← parseIe s len ieOff (fctlI f.fctl)
  let payldOff := ieOff + ie.ieSz
  if len < payldOff + f.mhopSz + ie.micSz then
    .error .overrun
  else
    let payldSz := len - payldOff - f.mhopSz - ie.micSz
    let mhopOff := payldOff + payldSz
    let mh := readMhop s mhopOff f.mhopSz
    .ok { pid := pid, fctl := f.fctl, netid := netid.setWidth 16, dst := dst, src := src, hops := mh.hops,
          txaddr := mh.txaddr, netidOff := 2, dstOff := BitVec.ofNat 16 dstOff, srcOff := BitVec.ofNat 16 srcOff,
          ieOff := BitVec.ofNat 16 ieOff, ieSz := BitVec.ofNat 16 ie.ieSz, ieh := ie.ieh,
          payldOff := BitVec.ofNat 16 payldOff, payldSz := BitVec.ofNat 16 payldSz,
          mhopOff := BitVec.ofNat 16 mhopOff, micOff := BitVec.ofNat 16 (mhopOff + f.mhopSz),
          micSz := BitVec.ofNat 16 ie.micSz }

/-- `PARSE` (R180): refused outside RX mode with nothing changed; a format failure leaves arbitrary descriptors
(R188). The fault is for a state that no run reaches, whose frame is not inside the buffer (10_state.md R22). -/
def execParse (s : State) : Result :=
  if s.mode ≠ .rx then raiseFail .mode s
  else if s.cap < s.headroom + s.fsz.toNat then .fault .frameOutsideBuffer
  else
    match parseFrame s with
    | .error c => formatFail c s
    | .ok d => complete ((s.setDesc d).setValid true)

end Sys2Proof.Machine
end

