-- ==== Sys2Proof/Machine/Dispatch.lean ====
section
/-! DEFINITION. One arm per operation of spec/opcode_table.json. -/

namespace Sys2Proof.Machine

def exec (i : Instr) (s : State) : Host.Outcome State Fault Refusal :=
  match i with
  | .discard => Sys2Proof.Machine.execDiscard s
  | .newTx => Sys2Proof.Machine.execNewTx s
  | .newRx data => Sys2Proof.Machine.execNewRx data s
  | .parse => Sys2Proof.Machine.execParse s
  | .setProtocol id => Sys2Proof.Machine.execSetProtocol id s
  | .setNetId id => Sys2Proof.Machine.execSetNetId id s
  | .setDstShort a => Sys2Proof.Machine.execSetDstShort a s
  | .setDstLong a => Sys2Proof.Machine.execSetDstLong a s
  | .setSrcShort a => Sys2Proof.Machine.execSetSrcShort a s
  | .setSrcLong a => Sys2Proof.Machine.execSetSrcLong a s
  | .setPayld data => Sys2Proof.Machine.execSetPayld data s
  | .setPayldSz len => Sys2Proof.Machine.execSetPayldSz len s
  | .setMhopShort hops a => Sys2Proof.Machine.execSetMhopShort hops a s
  | .setMhopLong hops a => Sys2Proof.Machine.execSetMhopLong hops a s
  | .setMic => Sys2Proof.Machine.execSetMic s
  | .unassignedF => Sys2Proof.Machine.execUnassignedF s
  | .bufRd addr => Sys2Proof.Machine.execBufRd addr s
  | .bufWr addr b => Sys2Proof.Machine.execBufWr addr b s
  | .regRd idx => Sys2Proof.Machine.execRegRd idx s

end Sys2Proof.Machine
end

