-- ==== Sys2Proof/Machine/Step.lean ====
section
/-! DEFINITION. One step of the machine is one whole operation (00_scope.md R14): the host's next input is taken and
carried out. With no input the block waits (70_reset_and_hazards.md R250, R264). -/

namespace Sys2Proof.Machine

/-- One step. Parameters that are no configuration of this hardware are refused (00_scope.md R6, log 9); a request is
decoded and carried out; the `RESET` event falls between operations (70_reset_and_hazards.md R250, R263). -/
def step (s : State) : Host.Outcome State Fault Refusal :=
  if wellFormedConfig s.cfg then
    match s.inputs.head? with
    | none => .next s
    | some .reset => .next s.dropInput.takeReset
    | some (.request r) =>
      match decode r with
      | .ok i => exec i s.dropInput
      | .error e => .refused (.undecodable e)
  else .refused .illFormedConfig

/-- The request with this table word comes next, before every pending input (log 14). -/
def State.withFetchWord (s : State) (nbits w : Nat) : State :=
  match requestOfTableWord nbits w with
  | .ok r => { s with inputs := .request r :: s.inputs }
  | .error _ => s

end Sys2Proof.Machine
end

