-- ==== Sys2Proof/Machine/Pseudo.lean ====
section
/-! DEFINITION. The pseudo-operations (30_encoding.md R115): spellings that expand to operations. -/

namespace Sys2Proof.Machine

/-- The number of a register (10_state.md R21). -/
def idxOfReg (r : Reg) : BitVec 6 := BitVec.ofNat 6 (regList.idxOf r)

/-- `set_dst_addr(a)`: no operation for an absent address (R115). -/
def pseudoSetDst : Address → List Instr
  | .absent => []
  | .short a => [.setDstShort a]
  | .long a => [.setDstLong a]

/-- `set_src_addr(a)`: no operation for an absent address (R115). -/
def pseudoSetSrc : Address → List Instr
  | .absent => []
  | .short a => [.setSrcShort a]
  | .long a => [.setSrcLong a]

/-- `set_mhop(hops, a)` with a short or long relay address; the table gives no expansion for an absent one (R115). -/
def pseudoSetMhop (hops : Byte) : Address → Option (List Instr)
  | .absent => none
  | .short a => some [.setMhopShort hops a]
  | .long a => some [.setMhopLong hops a]

/-- Obtaining the payload's returned reference (R115). -/
def pseudoPayloadRef : List Instr := [.regRd (idxOfReg .payldPtr)]

/-- `remaining_capacity` (R115). -/
def pseudoRemainingCapacity : List Instr := [.regRd (idxOfReg .remain)]

/-- The field accessor of a value or offset register (R115). -/
def pseudoAccessor (r : Reg) : List Instr := [.regRd (idxOfReg r)]

/-- Reading `n` consecutive buffer bytes from an address, one `BUF_RD` each. -/
def readBytesFrom (a n : Nat) : List Instr := (List.range n).map fun i => .bufRd (BitVec.ofNat 16 (a + i))

/-- The field accessor of the payload bytes, once `PAYLD_PTR` and `PAYLD_SZ` have read as `ptr` and `sz` (R115). -/
def pseudoPayloadBytes (ptr sz : Nat) : List Instr :=
  [.regRd (idxOfReg .payldPtr), .regRd (idxOfReg .payldSz)] ++ readBytesFrom ptr sz

/-- Reading the frame to hand off, once `FSZ` and `CFG_HEADROOM` have read as `sz` and `headroom` (R115,
20_memory.md R76). -/
def pseudoReadFrame (headroom sz : Nat) : List Instr :=
  [.regRd (idxOfReg .fsz), .regRd (idxOfReg .cfgHeadroom)] ++ readBytesFrom headroom sz

end Sys2Proof.Machine
end

