-- ==== Sys2Proof/Machine/View.lean ====
section
/-! DEFINITION. The logical fields of the data model, as the registers and the buffer give them (44_access.md R204),
and when they describe the frame (10_state.md R35). -/

namespace Sys2Proof.Machine

/-- The descriptors describe the frame: in TX mode, and in RX mode after a successful `PARSE` (10_state.md R35). -/
def State.described (s : State) : Bool := decide (s.mode = .tx) || (decide (s.mode = .rx) && s.valid)

/-- The Network-Id, present when `FCTL[7] = 1`. -/
def State.logicalNetId (s : State) : Option Half := if fctlN s.desc.fctl then some s.desc.netid else none

/-- The destination address by its mode `FCTL[5:4]`. -/
def State.logicalDst (s : State) : Option Address := addressOf (fctlDam s.desc.fctl) s.desc.dst

/-- The source address by its mode `FCTL[3:2]`. -/
def State.logicalSrc (s : State) : Option Address := addressOf (fctlSam s.desc.fctl) s.desc.src

/-- The relay address by its mode `FCTL[1:0]`. -/
def State.logicalRelay (s : State) : Option Address := addressOf (fctlMam s.desc.fctl) s.desc.txaddr

/-- The bytes of the IE region. -/
def State.ieBytes (s : State) : List Byte := s.frBytes s.desc.ieOff.toNat s.desc.ieSz.toNat

/-- The payload bytes. -/
def State.payloadBytes (s : State) : List Byte := s.frBytes s.desc.payldOff.toNat s.desc.payldSz.toNat

/-- The bytes of the integrity field. -/
def State.micBytes (s : State) : List Byte := s.frBytes s.desc.micOff.toNat s.desc.micSz.toNat

end Sys2Proof.Machine
end

