-- ==== Sys2Proof/Machine/Wire.lean ====
section
/-! DEFINITION. The wire format of a frame as the spec lays it out (30_encoding.md R90 to R103), said once without the
builder or the parser, for claims about both. -/

namespace Sys2Proof.Machine

/-- `asz(m)` where the code is recognized, else 0. -/
def aszD (m : BitVec 2) : Nat := (asz m).getD 0
/-- `msz(m)` where the code is recognized, else 0. -/
def mszD (m : BitVec 2) : Nat := (msz m).getD 0
/-- `iesz(c)` where the code is recognized, else 0. -/
def ieszD (c : BitVec 2) : Nat := (iesz c).getD 0
/-- `micsz(c)` where the code is recognized, else 0. -/
def micszD (c : BitVec 2) : Nat := (micsz c).getD 0

/-- No address mode code of a Frame-Control byte is 3 (30_encoding.md R95, R104). -/
def recognizedFctl (f : Byte) : Bool := decide (fctlDam f ≠ 3 ∧ fctlSam f ≠ 3 ∧ fctlMam f ≠ 3)

/-- No size code of an IE header byte is 3 (30_encoding.md R98, R104). -/
def recognizedIeh (h : Byte) : Bool := decide (iehIsc h ≠ 3 ∧ iehMsc h ≠ 3)

/-- The frame offset of the IE region, after whatever header field is last present (30_encoding.md R91, R97). -/
def ieOffset (f : Byte) : Nat := 2 + nsz (fctlN f) + aszD (fctlDam f) + aszD (fctlSam f)

/-- The size of the IE region, 0 when absent (30_encoding.md R91). -/
def ieRegionSize (f h : Byte) : Nat := if fctlI f then ieszD (iehIsc h) else 0

/-- The size of the integrity field, 0 when there is no IE header to signal it (30_encoding.md R99). -/
def micFieldSize (f h : Byte) : Nat := if fctlI f then micszD (iehMsc h) else 0

/-- The shortest frame with these signalling bytes: the length law with an empty payload (30_encoding.md R101). -/
def minLength (f h : Byte) : Nat := ieOffset f + ieRegionSize f h + mszD (fctlMam f) + micFieldSize f h

/-- The Frame-Control byte a builder emits (30_encoding.md R103). -/
def builderFctl (n : Bool) (dam sam mam : BitVec 2) : Byte := (if n then 1#1 else 0#1) ++ 0#1 ++ dam ++ sam ++ mam

/-- The logical fields of one frame (30_encoding.md R91): values where present, the byte strings opaque. -/
structure Frame where
  pid : Byte
  fctl : Byte
  netid : Half
  dst : Long
  src : Long
  ieh : Byte
  ieBody : List Byte
  payload : List Byte
  hops : Byte
  txaddr : Long
  mic : List Byte
deriving DecidableEq, Repr

/-- The byte string of a frame: its fields in order, back to back (30_encoding.md R91 to R99). -/
def Frame.bytes (x : Frame) : List Byte :=
  [x.pid, x.fctl]
    ++ leBytes (nsz (fctlN x.fctl)) (x.netid.setWidth 64)
    ++ leBytes (aszD (fctlDam x.fctl)) x.dst
    ++ leBytes (aszD (fctlSam x.fctl)) x.src
    ++ (if fctlI x.fctl then x.ieh :: x.ieBody else [])
    ++ x.payload
    ++ (if fctlMam x.fctl = 0 then [] else x.hops :: leBytes (aszD (fctlMam x.fctl)) x.txaddr)
    ++ x.mic

/-- The value of an address register agrees with its mode: 0 when absent, 16 bits when short (10_state.md R30). -/
abbrev addressFits (m : BitVec 2) (v : Long) : Prop := (m = 0 → v = 0) ∧ (m = 1 → v.toNat < 2 ^ 16)

/-- A frame of the contention-access variant, its codes recognized and its byte strings of the sizes they announce;
absent fields hold 0 (30_encoding.md R91 to R100, 10_state.md R25, R30). -/
abbrev Frame.ok (pidCsma : Byte) (x : Frame) : Prop :=
  x.pid = pidCsma ∧ recognizedFctl x.fctl = true
  ∧ (fctlN x.fctl = false → x.netid = 0)
  ∧ addressFits (fctlDam x.fctl) x.dst ∧ addressFits (fctlSam x.fctl) x.src
  ∧ addressFits (fctlMam x.fctl) x.txaddr ∧ (fctlMam x.fctl = 0 → x.hops = 0)
  ∧ (fctlI x.fctl = true → recognizedIeh x.ieh = true ∧ x.ieBody.length + 1 = ieszD (iehIsc x.ieh))
  ∧ (fctlI x.fctl = false → x.ieh = 0 ∧ x.ieBody = [])
  ∧ x.mic.length = micFieldSize x.fctl x.ieh

end Sys2Proof.Machine
end

