-- ==== Sys2Proof/Safety.lean ====
section
/-! DEFINITION. The terms the claims use: the invariant of every reachable state (10_state.md R22 to R33), the shape
of a setter's rule (41_builder_header.md R140), runs that build a frame (43_parser.md R190), and what `PARSE` accepts
and reads (43_parser.md R180 to R189). -/

namespace Sys2Proof.Machine

/-! ### The invariant -/

/-- The offset and size equalities of a consistent descriptor set (10_state.md R31), no mode code unrecognized. -/
abbrev Consistent (d : Desc) (fsz : Half) : Prop :=
  recognizedFctl d.fctl = true
  ∧ d.netidOff.toNat = 2
  ∧ d.dstOff.toNat = d.netidOff.toNat + nsz (fctlN d.fctl)
  ∧ d.srcOff.toNat = d.dstOff.toNat + aszD (fctlDam d.fctl)
  ∧ d.ieOff.toNat = d.srcOff.toNat + aszD (fctlSam d.fctl)
  ∧ d.payldOff.toNat = d.ieOff.toNat + d.ieSz.toNat
  ∧ d.mhopOff.toNat = d.payldOff.toNat + d.payldSz.toNat
  ∧ d.micOff.toNat = d.mhopOff.toNat + mszD (fctlMam d.fctl)
  ∧ fsz.toNat = d.micOff.toNat + d.micSz.toNat

/-- The IE and integrity-field registers agree with the signalling bytes (10_state.md R32, R33). -/
abbrev SizesSignalled (d : Desc) : Prop :=
  d.ieSz.toNat = ieRegionSize d.fctl d.ieh ∧ d.micSz.toNat = micFieldSize d.fctl d.ieh
  ∧ (fctlI d.fctl = true → recognizedIeh d.ieh = true) ∧ (fctlI d.fctl = false → d.ieh = 0)

/-- Absent values are 0 and short addresses have 16 bits (10_state.md R25, R30). -/
abbrev ValuesFit (d : Desc) : Prop :=
  (fctlN d.fctl = false → d.netid = 0)
  ∧ addressFits (fctlDam d.fctl) d.dst ∧ addressFits (fctlSam d.fctl) d.src
  ∧ addressFits (fctlMam d.fctl) d.txaddr ∧ (fctlMam d.fctl = 0 → d.hops = 0)

/-- The descriptors describe a frame of size `fsz`. -/
abbrev Describes (d : Desc) (fsz : Half) : Prop := Consistent d fsz ∧ SizesSignalled d ∧ ValuesFit d

/-- No field after the stage is present (10_state.md R23, R25). -/
abbrev NothingAfterStage (k : Stage) (d : Desc) : Prop :=
  (stageCode k < 2 → fctlN d.fctl = false) ∧ (stageCode k < 3 → fctlDam d.fctl = 0)
  ∧ (stageCode k < 4 → fctlSam d.fctl = 0) ∧ (stageCode k < 5 → d.payldSz = 0)
  ∧ (stageCode k < 6 → fctlMam d.fctl = 0)

/-- IDLE mode: no frame (10_state.md R26, 40_lifecycle.md R130). -/
abbrev IdleInv (s : State) : Prop :=
  s.mode = .idle → s.stage = .empty ∧ s.valid = false ∧ s.fsz = 0 ∧ s.desc = Desc.zero

/-- TX mode: an empty frame, or the builder's bookkeeping for the fields written so far, the integrity reserve kept
free (10_state.md R22, R25, R27, R28, R31 to R33). -/
abbrev TxInv (s : State) : Prop :=
  s.mode = .tx → s.valid = false
    ∧ (s.stage = .empty → s.fsz = 0 ∧ s.desc = Desc.zero)
    ∧ (s.stage ≠ .empty → Describes s.desc s.fsz ∧ fctlI s.desc.fctl = false
        ∧ s.fsz.toNat + s.rsvd ≤ s.fcap ∧ NothingAfterStage s.stage s.desc)

/-- RX mode: no builder stage, and after a successful `PARSE` the descriptors describe the frame (10_state.md R23,
R29, R35, 43_parser.md R187). -/
abbrev RxInv (s : State) : Prop :=
  s.mode = .rx → s.stage = .empty ∧ (s.valid = true → Describes s.desc s.fsz ∧ s.desc.pid = s.cfg.pidCsma)

/-- The invariant of every reachable state: a configuration of this hardware, memory in canonical form and inside
the buffer, the frame inside the buffer (10_state.md R22), and the rule of the mode. -/
abbrev Inv (s : State) : Prop :=
  wellFormedConfig s.cfg = true
  ∧ Memory.wf s.buf ∧ (∀ c ∈ s.buf, c.1 < s.cap)
  ∧ s.headroom + s.fsz.toNat ≤ s.cap
  ∧ IdleInv s ∧ TxInv s ∧ RxInv s

/-! ### Failures and setters -/

/-- The state after a failure that has no effect: only the response (60_exceptions.md R220). -/
abbrev failed (s : State) (c : Cause) : State :=
  { s with resp := some { ok := false, rdata := .none, cause := some c } }

/-- The last operation answered `ok = 1`. -/
abbrev respondedOk (s : State) : Prop := s.resp.map Response.ok = some true

/-- The last operation answered `ok = 0`. -/
abbrev respondedFail (s : State) : Prop := s.resp.map Response.ok = some false

/-- The shape of a setter's rule (41_builder_header.md R140): the three checks in order, each failing with no effect,
and what holds after success. `legal` is the operation's own condition, `size` the frame size it would reach. -/
abbrev SetterRule (i : Instr) (s : State) (legal : Prop) (size : Nat) (after : State → Prop) : Prop :=
  (s.mode ≠ .tx → exec i s = .next (failed s .mode))
  ∧ (s.mode = .tx → ¬ legal → exec i s = .next (failed s .order))
  ∧ (s.mode = .tx → legal → s.fcap < size + s.rsvd → exec i s = .next (failed s .capacity))
  ∧ (s.mode = .tx → legal → size + s.rsvd ≤ s.fcap → ∃ t, exec i s = .next t ∧ after t)

/-- `lo <= STAGE <= hi` (10_state.md R24). -/
abbrev stageBetween (lo hi : Nat) (s : State) : Prop := lo ≤ stageCode s.stage ∧ stageCode s.stage ≤ hi

/-- Every byte of memory after a setter: the Frame-Control byte at frame offset 1, the `n` field bytes from frame
offset `FSZ` on, and every other byte as before. -/
abbrev FieldStored (s t : State) (fctl : Byte) (n : Nat) (field : Nat → Byte) : Prop :=
  ∀ x, t.bufByte x =
    if x = s.headroom + 1 then fctl
    else if s.headroom + s.fsz.toNat ≤ x ∧ x < s.headroom + s.fsz.toNat + n then
      field (x - (s.headroom + s.fsz.toNat))
    else s.bufByte x

/-- Byte `i` of a little-endian value: bits `8i+7 : 8i` (00_scope.md R10). -/
abbrev byteOf (v : Long) (i : Nat) : Byte := v.extractLsb' (8 * i) 8

/-- The setters: the builder operations but `SET_MIC` (10_state.md R24). -/
def isSetter : Instr → Bool
  | .setProtocol _ => true
  | .setNetId _ => true
  | .setDstShort _ => true
  | .setDstLong _ => true
  | .setSrcShort _ => true
  | .setSrcLong _ => true
  | .setPayld _ => true
  | .setPayldSz _ => true
  | .setMhopShort _ _ => true
  | .setMhopLong _ _ => true
  | .discard => false
  | .newTx => false
  | .newRx _ => false
  | .parse => false
  | .setMic => false
  | .unassignedF => false
  | .bufRd _ => false
  | .bufWr _ _ => false
  | .regRd _ => false

/-- The constructing operations `DISCARD`, `NEW_TX`, `NEW_RX` (40_lifecycle.md). -/
def isLifecycle : Instr → Bool
  | .discard => true
  | .newTx => true
  | .newRx _ => true
  | .parse => false
  | .setProtocol _ => false
  | .setNetId _ => false
  | .setDstShort _ => false
  | .setDstLong _ => false
  | .setSrcShort _ => false
  | .setSrcLong _ => false
  | .setPayld _ => false
  | .setPayldSz _ => false
  | .setMhopShort _ _ => false
  | .setMhopLong _ _ => false
  | .setMic => false
  | .unassignedF => false
  | .bufRd _ => false
  | .bufWr _ _ => false
  | .regRd _ => false

/-! ### Sequences of operations -/

/-- Operations carried out one after another, stopping at a fault or a refusal. -/
def execAll : List Instr → State → Result
  | [], s => .next s
  | i :: is, s =>
    match exec i s with
    | .next t => execAll is t
    | .fault f => .fault f
    | .refused r => .refused r

/-- `BUF_WR` of a byte string at consecutive addresses (42_builder_payload_trailer.md R160, 40_lifecycle.md R133). -/
def pokes : Nat → List Byte → List Instr
  | _, [] => []
  | a, b :: bs => .bufWr (BitVec.ofNat 16 a) b :: pokes (a + 1) bs

/-- What the host may do while it builds a frame: anything but construct another frame or overwrite encoded bytes
other than the payload (43_parser.md R190, 70_reset_and_hazards.md R257). -/
def allowedInBuild (s : State) : Instr → Bool
  | .discard => false
  | .newTx => false
  | .newRx _ => false
  | .bufWr addr _ =>
    decide (addr.toNat < s.headroom ∨ s.headroom + s.fsz.toNat ≤ addr.toNat
      ∨ (s.headroom + s.desc.payldOff.toNat ≤ addr.toNat
          ∧ addr.toNat < s.headroom + s.desc.payldOff.toNat + s.desc.payldSz.toNat))
  | .parse => true
  | .setProtocol _ => true
  | .setNetId _ => true
  | .setDstShort _ => true
  | .setDstLong _ => true
  | .setSrcShort _ => true
  | .setSrcLong _ => true
  | .setPayld _ => true
  | .setPayldSz _ => true
  | .setMhopShort _ _ => true
  | .setMhopLong _ _ => true
  | .setMic => true
  | .unassignedF => true
  | .bufRd _ => true
  | .regRd _ => true

/-- `t` holds a frame begun by `NEW_TX; SET_PROTOCOL PID_CSMA` in `s` and continued by allowed operations, whether
they succeed or fail (43_parser.md R190, 60_exceptions.md R229). -/
inductive BuildRun : State → State → Prop where
  | start {s t u : State} : exec .newTx s = .next t → exec (.setProtocol s.cfg.pidCsma) t = .next u →
      respondedOk u → BuildRun s u
  | step {s t u : State} {i : Instr} : BuildRun s t → allowedInBuild t i = true → exec i t = .next u → BuildRun s u

/-- The frame a state's descriptors and buffer stand for (44_access.md R204). -/
def State.frame (s : State) : Frame :=
  { pid := s.desc.pid, fctl := s.desc.fctl, netid := s.desc.netid, dst := s.desc.dst, src := s.desc.src,
    ieh := s.desc.ieh, ieBody := s.ieBytes.drop 1, payload := s.payloadBytes, hops := s.desc.hops,
    txaddr := s.desc.txaddr, mic := s.micBytes }

/-! ### What `PARSE` accepts and reads -/

/-- The IE header byte of a frame: the byte at the IE offset its Frame-Control byte gives. -/
def State.iehByte (s : State) : Byte := s.frByte (ieOffset (s.frByte 1))

/-- A received frame that `PARSE` accepts (43_parser.md R181 to R185, 30_encoding.md R104). -/
abbrev accepted (s : State) : Prop :=
  2 ≤ s.fsz.toNat ∧ s.frByte 0 = s.cfg.pidCsma ∧ recognizedFctl (s.frByte 1) = true
  ∧ (fctlI (s.frByte 1) = true → ieOffset (s.frByte 1) < s.fsz.toNat ∧ recognizedIeh s.iehByte = true)
  ∧ minLength (s.frByte 1) s.iehByte ≤ s.fsz.toNat

/-- The frame offsets whose bytes `PARSE` may read (43_parser.md R189): the Protocol-Id; then, if it matches, the
Frame-Control byte; then, if its codes are recognized, the header fields present, the IE header byte, and the trailer
bytes, which end where the integrity field begins. -/
abbrev inReadSet (s : State) (o : Nat) : Prop :=
  o < s.fsz.toNat
  ∧ (o = 0 ∨ (s.frByte 0 = s.cfg.pidCsma
      ∧ (o = 1 ∨ (recognizedFctl (s.frByte 1) = true
          ∧ ((2 ≤ o ∧ o < ieOffset (s.frByte 1))
              ∨ (fctlI (s.frByte 1) = true ∧ o = ieOffset (s.frByte 1))
              ∨ (s.fsz.toNat ≤ o + mszD (fctlMam (s.frByte 1)) + micFieldSize (s.frByte 1) s.iehByte
                  ∧ o + micFieldSize (s.frByte 1) s.iehByte < s.fsz.toNat))))))

/-- The registers in the order of their numbers, each at its width zero-extended (10_state.md R21, R34). -/
def registerFile (s : State) : List Nat :=
  [modeCode s.mode, stageCode s.stage, s.valid.toNat, s.fsz.toNat, s.desc.pid.toNat, s.desc.fctl.toNat,
   s.desc.netid.toNat, s.desc.dst.toNat, s.desc.src.toNat, s.desc.hops.toNat, s.desc.txaddr.toNat,
   s.desc.netidOff.toNat, s.desc.dstOff.toNat, s.desc.srcOff.toNat, s.desc.ieOff.toNat, s.desc.ieSz.toNat,
   s.desc.ieh.toNat, s.desc.payldOff.toNat, s.desc.payldSz.toNat, s.desc.mhopOff.toNat, s.desc.micOff.toNat,
   s.desc.micSz.toNat,
   if s.mode = .tx then s.cap - s.headroom - s.rsvd - s.fsz.toNat else 0,
   s.cap, s.headroom, s.rsvd, s.cfg.pidCsma.toNat, s.headroom + s.desc.payldOff.toNat]

end Sys2Proof.Machine
end

