-- ==== Sys2Proof/Certificates/Slice0/Obligations.lean ====
section
/-! DEFINITION. The statements for the provers. Each docstring names the rule of spec/ it formalises, or says that it is
the model's own choice and names the log entry. -/

open Sys2Proof Sys2Proof.Machine

/-! ### Encoding -/

/-- Decoding the request an operation is encoded as gives the operation back, for every operand the encoding admits
(30_encoding.md R106 to R110, R113). -/
def Obligations.EncodedInstructionDecodesToItself : Prop :=
  ∀ i : Instr, i.wellFormed = true → decode (encode i) = .ok i

/-- Operation codes 0x0 to 0xF and the operands each one uses, whatever the other fields hold (30_encoding.md R106 to
R108, R113). -/
def Obligations.CommandWordIsReadByItsOpcode : Prop :=
  ∀ (hops : Byte) (len : Half) (arg : Long) (data : List Byte),
    decode (.command (mkCW 0x0 hops len arg) data) = .ok .discard
    ∧ decode (.command (mkCW 0x1 hops len arg) data) = .ok .newTx
    ∧ (data.length = len.toNat → decode (.command (mkCW 0x2 hops len arg) data) = .ok (.newRx data))
    ∧ decode (.command (mkCW 0x3 hops len arg) data) = .ok .parse
    ∧ decode (.command (mkCW 0x4 hops len arg) data) = .ok (.setProtocol (arg.setWidth 8))
    ∧ decode (.command (mkCW 0x5 hops len arg) data) = .ok (.setNetId (arg.setWidth 16))
    ∧ decode (.command (mkCW 0x6 hops len arg) data) = .ok (.setDstShort (arg.setWidth 16))
    ∧ decode (.command (mkCW 0x7 hops len arg) data) = .ok (.setDstLong arg)
    ∧ decode (.command (mkCW 0x8 hops len arg) data) = .ok (.setSrcShort (arg.setWidth 16))
    ∧ decode (.command (mkCW 0x9 hops len arg) data) = .ok (.setSrcLong arg)
    ∧ (data.length = len.toNat → decode (.command (mkCW 0xA hops len arg) data) = .ok (.setPayld data))
    ∧ decode (.command (mkCW 0xB hops len arg) data) = .ok (.setPayldSz len)
    ∧ decode (.command (mkCW 0xC hops len arg) data) = .ok (.setMhopShort hops (arg.setWidth 16))
    ∧ decode (.command (mkCW 0xD hops len arg) data) = .ok (.setMhopLong hops arg)
    ∧ decode (.command (mkCW 0xE hops len arg) data) = .ok .setMic
    ∧ decode (.command (mkCW 0xF hops len arg) data) = .ok .unassignedF

/-- The buffer port word and the register port word (30_encoding.md R109, R110). -/
def Obligations.BufferAndRegisterWordsAreRead : Prop :=
  ∀ (addr : Half) (b : Byte) (rw : BitVec 6),
    decode (.buffer (mkBW 0 addr b)) = .ok (.bufRd addr)
    ∧ decode (.buffer (mkBW 1 addr b)) = .ok (.bufWr addr b)
    ∧ decode (.register rw) = .ok (.regRd rw)

/-- Words written out by the spec (95_test_vectors.md sections 1, 2.2, 2.7, 3) decode to the operations it names. -/
def Obligations.WrittenOutWordsDecode : Prop :=
  decodeTableWord 96 0x10000000000000000000000 = some .newTx
  ∧ decodeTableWord 96 0x400000000000000000000E4 = some (.setProtocol 0xE4)
  ∧ decodeTableWord 96 0x6000000FFFFFFFFFFFF1234 = some (.setDstShort 0x1234)
  ∧ decodeTableWord 96 0xD03000000ABCDEF01234567 = some (.setMhopLong 3 0x00ABCDEF01234567)
  ∧ decodeTableWord 96 0xB0000040000000000000000 = some (.setPayldSz 4)
  ∧ decodeTableWord 32 0x1001F5A = some (.bufWr 31 0x5A)
  ∧ decodeTableWord 32 0x0FFFF00 = some (.bufRd 65535)
  ∧ decodeTableWord 8 0x1B = some (.regRd 27)

/-- The model's choice, log 8: a data string that is not exactly `len` bytes long is no request and is refused
(30_encoding.md R106 says that it has exactly `len` bytes). -/
def Obligations.DataStringOfAnotherLengthIsRefused : Prop :=
  ∀ (hops : Byte) (len : Half) (arg : Long) (data : List Byte), data.length ≠ len.toNat →
    decode (.command (mkCW 0x2 hops len arg) data) = .error (.dataLength len.toNat data.length)
    ∧ decode (.command (mkCW 0xA hops len arg) data) = .error (.dataLength len.toNat data.length)

/-! ### The step -/

/-- A step carries out the operation that the next request decodes to, on the state with that request taken off the
list (00_scope.md R14, 20_memory.md R72; the list is the model's, log 1). -/
def Obligations.StepRunsTheDecodedRequest : Prop :=
  ∀ (s : State) (r : Request) (rest : List Input) (i : Instr),
    wellFormedConfig s.cfg = true → s.inputs = .request r :: rest → decode r = .ok i →
    step s = exec i { s with inputs := rest }

/-- The model's choice, log 1: with no request pending the block waits (70_reset_and_hazards.md R250, R264). -/
def Obligations.StepWithoutRequestWaits : Prop :=
  ∀ s : State, wellFormedConfig s.cfg = true → s.inputs = [] → step s = .next s

/-- The `RESET` event gives every register its reset value, keeps the parameters, and leaves every buffer byte
unspecified (70_reset_and_hazards.md R250). That no response is left, that later inputs still come and that the byte is
drawn anew for each reset are the model's choices, logs 6 and 11. -/
def Obligations.ResetEventClearsTheMachine : Prop :=
  ∀ (s : State) (rest : List Input), wellFormedConfig s.cfg = true → s.inputs = .reset :: rest →
    ∃ t, step s = .next t
      ∧ t = { State.resetWith s.cfg with inputs := rest, epoch := s.epoch + 1, draws := s.draws }
      ∧ ∀ a, t.bufByte a = Config.unwrittenByte (s.epoch + 1) a

/-- After reset every register has its reset value and no buffer byte has been written, under any parameters
(10_state.md R39). -/
def Obligations.ResetValuesAreTheSpecs : Prop :=
  ∀ c : Config,
    registerFile (State.resetWith c) =
      List.replicate 23 0 ++ [c.cap.toNat, c.headroom.toNat, c.micRsvd.toNat, c.pidCsma.toNat, c.headroom.toNat]
    ∧ ∀ a, Memory.read? (State.resetWith c).buf a = none

/-- The invariant holds at reset, under every configuration of this hardware. -/
def Obligations.InvariantHoldsAtReset : Prop :=
  Inv State.reset ∧ ∀ c : Config, wellFormedConfig c = true → Inv (State.resetWith c)

/-- Every step keeps the invariant: memory stays canonical and inside the buffer, the frame stays inside the buffer
with the integrity reserve free, and the descriptors describe the frame (10_state.md R22, R25, R27 to R33). -/
def Obligations.EveryStepKeepsTheInvariant : Prop :=
  ∀ s t : State, Inv s → step s = .next t → Inv t

/-- Every operation is defined in every state: it answers a next state with a response, its own parameters kept
(70_reset_and_hazards.md R262, 60_exceptions.md R220). -/
def Obligations.EveryOperationIsDefinedInEveryState : Prop :=
  ∀ (i : Instr) (s : State), Inv s → ∃ t r, exec i s = .next t ∧ t.resp = some r ∧ t.cfg = s.cfg

/-! ### Lifecycle -/

/-- `DISCARD` (40_lifecycle.md R130). -/
def Obligations.DiscardEndsTheFrame : Prop :=
  ∀ s : State, ∃ t, exec .discard s = .next t
    ∧ t = { State.resetWith s.cfg with
              buf := s.buf, inputs := s.inputs, epoch := s.epoch, draws := s.draws, resp := some okResponse }
    ∧ ∀ a, t.bufByte a = s.bufByte a

/-- `NEW_TX` (40_lifecycle.md R131). -/
def Obligations.NewTxOpensAnEmptyFrame : Prop :=
  ∀ s : State, ∃ t, exec .newTx s = .next t
    ∧ t = { State.resetWith s.cfg with
              mode := .tx, buf := s.buf, inputs := s.inputs, epoch := s.epoch, draws := s.draws,
              resp := some okResponse }
    ∧ t.remain = s.cap - s.headroom - s.rsvd ∧ t.payldPtr = s.headroom
    ∧ ∀ a, t.bufByte a = s.bufByte a

/-- `NEW_RX len, data` (40_lifecycle.md R132). -/
def Obligations.NewRxLoadsTheReceivedBytes : Prop :=
  ∀ (s : State) (data : List Byte),
    (s.fcap < data.length → exec (.newRx data) s = .next (failed s .capacity))
    ∧ (data.length ≤ s.fcap → ∃ t, exec (.newRx data) s = .next t
        ∧ t = { State.resetWith s.cfg with
                  mode := .rx, fsz := t.fsz, buf := t.buf, inputs := s.inputs, epoch := s.epoch, draws := s.draws,
                  resp := some okResponse }
        ∧ t.fsz.toNat = data.length
        ∧ ∀ a, t.bufByte a =
            if s.headroom ≤ a ∧ a < s.headroom + data.length then data.getD (a - s.headroom) 0 else s.bufByte a)

/-- Writing the received bytes through the buffer port first changes nothing (40_lifecycle.md R133). -/
def Obligations.LoadingThroughThePortFirstIsTheSame : Prop :=
  ∀ (s : State) (data : List Byte), wellFormedConfig s.cfg = true → data.length ≤ s.fcap →
    execAll (pokes s.headroom data ++ [.newRx data]) s = exec (.newRx data) s

/-! ### Builder -/

/-- `SET_PROTOCOL id` (41_builder_header.md R141): the checks, the two bytes, the registers, and the frame. -/
def Obligations.SetProtocolWritesTheTwoHeaderBytes : Prop :=
  ∀ (s : State) (id : Byte),
    SetterRule (.setProtocol id) s (s.stage = .empty) 2 fun t =>
      t = { s with
              fsz := 2, stage := .proto, buf := t.buf, resp := some okResponse,
              desc := { s.desc with pid := id, fctl := 0, netidOff := 2, dstOff := 2, srcOff := 2, ieOff := 2,
                                    payldOff := 2, mhopOff := 2, micOff := 2 } }
      ∧ ∀ x, t.bufByte x =
          if x = s.headroom then id else if x = s.headroom + 1 then 0 else s.bufByte x

/-- `SET_NET_ID id` (41_builder_header.md R142). -/
def Obligations.SetNetIdAppendsTheNetworkId : Prop :=
  ∀ (s : State) (id : Half),
    SetterRule (.setNetId id) s (s.stage = .proto) (s.fsz.toNat + 2) fun t =>
      t = { s with
              fsz := t.fsz, stage := .netid, buf := t.buf, resp := some okResponse,
              desc := { s.desc with netid := id, netidOff := s.fsz, fctl := s.desc.fctl ||| 0x80, dstOff := t.fsz,
                                    srcOff := t.fsz, ieOff := t.fsz, payldOff := t.fsz, mhopOff := t.fsz,
                                    micOff := t.fsz } }
      ∧ t.fsz.toNat = s.fsz.toNat + 2
      ∧ FieldStored s t (s.desc.fctl ||| 0x80) 2 (byteOf (id.setWidth 64))

/-- `SET_DST_SHORT a` and `SET_DST_LONG a` (41_builder_header.md R143, R144). -/
def Obligations.SetDstAppendsTheDestination : Prop :=
  (∀ (s : State) (a : Half),
    SetterRule (.setDstShort a) s (stageBetween 1 2 s) (s.fsz.toNat + 2) fun t =>
      t = { s with
              fsz := t.fsz, stage := .dst, buf := t.buf, resp := some okResponse,
              desc := { s.desc with dst := a.setWidth 64, dstOff := s.fsz, fctl := s.desc.fctl ||| 0x10,
                                    srcOff := t.fsz, ieOff := t.fsz, payldOff := t.fsz, mhopOff := t.fsz,
                                    micOff := t.fsz } }
      ∧ t.fsz.toNat = s.fsz.toNat + 2
      ∧ FieldStored s t (s.desc.fctl ||| 0x10) 2 (byteOf (a.setWidth 64)))
  ∧ ∀ (s : State) (a : Long),
    SetterRule (.setDstLong a) s (stageBetween 1 2 s) (s.fsz.toNat + 8) fun t =>
      t = { s with
              fsz := t.fsz, stage := .dst, buf := t.buf, resp := some okResponse,
              desc := { s.desc with dst := a, dstOff := s.fsz, fctl := s.desc.fctl ||| 0x20,
                                    srcOff := t.fsz, ieOff := t.fsz, payldOff := t.fsz, mhopOff := t.fsz,
                                    micOff := t.fsz } }
      ∧ t.fsz.toNat = s.fsz.toNat + 8
      ∧ FieldStored s t (s.desc.fctl ||| 0x20) 8 (byteOf a)

/-- `SET_SRC_SHORT a` and `SET_SRC_LONG a` (41_builder_header.md R145, R146). -/
def Obligations.SetSrcAppendsTheSource : Prop :=
  (∀ (s : State) (a : Half),
    SetterRule (.setSrcShort a) s (stageBetween 1 3 s) (s.fsz.toNat + 2) fun t =>
      t = { s with
              fsz := t.fsz, stage := .src, buf := t.buf, resp := some okResponse,
              desc := { s.desc with src := a.setWidth 64, srcOff := s.fsz, fctl := s.desc.fctl ||| 0x04,
                                    ieOff := t.fsz, payldOff := t.fsz, mhopOff := t.fsz, micOff := t.fsz } }
      ∧ t.fsz.toNat = s.fsz.toNat + 2
      ∧ FieldStored s t (s.desc.fctl ||| 0x04) 2 (byteOf (a.setWidth 64)))
  ∧ ∀ (s : State) (a : Long),
    SetterRule (.setSrcLong a) s (stageBetween 1 3 s) (s.fsz.toNat + 8) fun t =>
      t = { s with
              fsz := t.fsz, stage := .src, buf := t.buf, resp := some okResponse,
              desc := { s.desc with src := a, srcOff := s.fsz, fctl := s.desc.fctl ||| 0x08,
                                    ieOff := t.fsz, payldOff := t.fsz, mhopOff := t.fsz, micOff := t.fsz } }
      ∧ t.fsz.toNat = s.fsz.toNat + 8
      ∧ FieldStored s t (s.desc.fctl ||| 0x08) 8 (byteOf a)

/-- `SET_PAYLD len, data` (42_builder_payload_trailer.md R161); `FCTL` and `IE_OFF` are not changed. -/
def Obligations.SetPayldCopiesThePayload : Prop :=
  ∀ (s : State) (data : List Byte),
    SetterRule (.setPayld data) s (stageBetween 1 4 s) (s.fsz.toNat + data.length) fun t =>
      t = { s with
              fsz := t.fsz, stage := .payld, buf := t.buf, resp := some okResponse,
              desc := { s.desc with payldOff := s.fsz, payldSz := t.desc.payldSz, mhopOff := t.fsz,
                                    micOff := t.fsz } }
      ∧ t.fsz.toNat = s.fsz.toNat + data.length ∧ t.desc.payldSz.toNat = data.length
      ∧ ∀ x, t.bufByte x =
          if s.headroom + s.fsz.toNat ≤ x ∧ x < s.headroom + s.fsz.toNat + data.length then
            data.getD (x - (s.headroom + s.fsz.toNat)) 0
          else s.bufByte x

/-- `SET_PAYLD_SZ len` (42_builder_payload_trailer.md R162): no byte is written. -/
def Obligations.SetPayldSzRecordsTheSize : Prop :=
  ∀ (s : State) (len : Half),
    SetterRule (.setPayldSz len) s (stageBetween 1 5 s ∧ s.desc.payldSz.toNat ≤ len.toNat)
        (s.desc.payldOff.toNat + len.toNat) fun t =>
      t = { s with
              fsz := t.fsz, stage := .payld, resp := some okResponse,
              desc := { s.desc with payldSz := len, mhopOff := t.fsz, micOff := t.fsz } }
      ∧ t.fsz.toNat = s.desc.payldOff.toNat + len.toNat
      ∧ ∀ x, t.bufByte x = s.bufByte x

/-- `SET_MHOP_SHORT hops, a` and `SET_MHOP_LONG hops, a` (42_builder_payload_trailer.md R164, R165): the hop count
byte, then the relay address. -/
def Obligations.SetMhopAppendsTheTrailer : Prop :=
  (∀ (s : State) (hops : Byte) (a : Half),
    SetterRule (.setMhopShort hops a) s (stageBetween 1 5 s) (s.fsz.toNat + 3) fun t =>
      t = { s with
              fsz := t.fsz, stage := .mhop, buf := t.buf, resp := some okResponse,
              desc := { s.desc with hops := hops, txaddr := a.setWidth 64, mhopOff := s.fsz,
                                    fctl := s.desc.fctl ||| 0x01, micOff := t.fsz } }
      ∧ t.fsz.toNat = s.fsz.toNat + 3
      ∧ FieldStored s t (s.desc.fctl ||| 0x01) 3 (fun i => if i = 0 then hops else byteOf (a.setWidth 64) (i - 1)))
  ∧ ∀ (s : State) (hops : Byte) (a : Long),
    SetterRule (.setMhopLong hops a) s (stageBetween 1 5 s) (s.fsz.toNat + 9) fun t =>
      t = { s with
              fsz := t.fsz, stage := .mhop, buf := t.buf, resp := some okResponse,
              desc := { s.desc with hops := hops, txaddr := a, mhopOff := s.fsz, fctl := s.desc.fctl ||| 0x02,
                                    micOff := t.fsz } }
      ∧ t.fsz.toNat = s.fsz.toNat + 9
      ∧ FieldStored s t (s.desc.fctl ||| 0x02) 9 (fun i => if i = 0 then hops else byteOf a (i - 1))

/-- `SET_MIC` (42_builder_payload_trailer.md R166) fails in every mode and stage, nothing is written. -/
def Obligations.SetMicAlwaysFails : Prop :=
  ∀ s : State, exec .setMic s = .next (failed s .reserved)

/-- The unassigned opcode 0xF (30_encoding.md R113) fails in every mode and changes nothing. -/
def Obligations.UnassignedOpcodeAlwaysFails : Prop :=
  ∀ s : State, exec .unassignedF s = .next (failed s .opcode)

/-- `REMAIN` is exactly the payload size that still fits: a payload of `REMAIN` bytes is taken, one of `REMAIN + 1`
is not (10_state.md R34, 42_builder_payload_trailer.md R161). -/
def Obligations.RemainIsExactlyWhatSetPayldTakes : Prop :=
  ∀ (s : State) (data : List Byte), Inv s → s.mode = .tx → stageBetween 1 4 s →
    (data.length ≤ s.remain → ∃ t, exec (.setPayld data) s = .next t ∧ respondedOk t
        ∧ t.remain = s.remain - data.length)
    ∧ (s.remain < data.length → exec (.setPayld data) s = .next (failed s .capacity))

/-- A payload copied by `SET_PAYLD` and the same bytes written in place through the buffer port, then recorded by
`SET_PAYLD_SZ`, leave the same state (42_builder_payload_trailer.md R160). -/
def Obligations.InPlacePayloadEqualsCopiedPayload : Prop :=
  ∀ (s : State) (data : List Byte), Inv s → s.mode = .tx → stageBetween 1 4 s → data.length ≤ s.remain →
    ∃ t, exec (.setPayld data) s = .next t ∧ respondedOk t
      ∧ execAll (pokes s.payldPtr data ++ [.setPayldSz (BitVec.ofNat 16 data.length)]) s = .next t

/-! ### Parser -/

/-- `PARSE` outside RX mode fails and changes nothing, not even `VALID` (43_parser.md R180). -/
def Obligations.ParseOutsideRxModeChangesNothing : Prop :=
  ∀ s : State, s.mode ≠ .rx → exec .parse s = .next (failed s .mode)

/-- `PARSE` answers `ok` for exactly the frames whose Protocol-Id is recognized, whose size codes are recognized and
whose announced fields fit the received length (43_parser.md R181 to R185, 30_encoding.md R101, R104). -/
def Obligations.ParseAcceptsExactlyTheStructurallyValid : Prop :=
  ∀ s : State, s.mode = .rx → s.headroom + s.fsz.toNat ≤ s.cap →
    ∃ t, exec .parse s = .next t ∧ (respondedOk t ↔ accepted s) ∧ (respondedFail t ↔ ¬ accepted s)

/-- A format failure clears `VALID`, leaves each descriptor an arbitrary value of its own draw, and leaves `MODE`,
`STAGE`, `FSZ` and the buffer as they were (43_parser.md R188, 60_exceptions.md R224). -/
def Obligations.ParseFormatFailureTouchesOnlyValidAndDescriptors : Prop :=
  ∀ s : State, s.mode = .rx → s.headroom + s.fsz.toNat ≤ s.cap → ¬ accepted s →
    ∃ t, exec .parse s = .next t ∧ respondedFail t
      ∧ t = { s with valid := false, desc := arbitraryDesc s.draws, draws := t.draws, resp := t.resp }
      ∧ ∀ x, t.bufByte x = s.bufByte x

/-- A successful `PARSE` commits every descriptor: the offsets and sizes add up to the received length, each value is
read little-endian at its offset, absent fields are 0, and nothing but `VALID` and the descriptors changes
(43_parser.md R180, R183 to R185, R187). -/
def Obligations.ParseCommitsEveryField : Prop :=
  ∀ s : State, s.mode = .rx → s.headroom + s.fsz.toNat ≤ s.cap → accepted s →
    ∃ t, exec .parse s = .next t
      ∧ t = { s with valid := true, desc := t.desc, resp := some okResponse }
      ∧ Describes t.desc t.fsz
      ∧ t.desc.pid = s.cfg.pidCsma ∧ t.desc.fctl = s.frByte 1
      ∧ (fctlN t.desc.fctl = true → t.desc.netid = (s.frRead t.desc.netidOff.toNat 2).setWidth 16)
      ∧ t.desc.dst = s.frRead t.desc.dstOff.toNat (aszD (fctlDam t.desc.fctl))
      ∧ t.desc.src = s.frRead t.desc.srcOff.toNat (aszD (fctlSam t.desc.fctl))
      ∧ (fctlI t.desc.fctl = true → t.desc.ieh = s.frByte t.desc.ieOff.toNat)
      ∧ (fctlMam t.desc.fctl ≠ 0 → t.desc.hops = s.frByte t.desc.mhopOff.toNat
          ∧ t.desc.txaddr = s.frRead (t.desc.mhopOff.toNat + 1) (aszD (fctlMam t.desc.fctl)))

/-- Every frame of the wire format is accepted and taken apart into exactly its fields (30_encoding.md R91 to R102). -/
def Obligations.ParseRecoversEveryLaidOutFrame : Prop :=
  ∀ (s : State) (x : Frame), s.mode = .rx → s.headroom + s.fsz.toNat ≤ s.cap → x.ok s.cfg.pidCsma →
    s.frameBytes = x.bytes →
    ∃ t, exec .parse s = .next t ∧ respondedOk t ∧ t.valid = true ∧ Describes t.desc t.fsz ∧ t.frame = x

/-- `PARSE` depends on the bytes of its read set only: two received frames that agree there are both accepted, with
equal descriptors, or both rejected (43_parser.md R189). -/
def Obligations.ParseReadsOnlyItsReadSet : Prop :=
  ∀ s s' : State, s.mode = .rx → s'.mode = .rx → s.headroom + s.fsz.toNat ≤ s.cap →
    s'.headroom + s'.fsz.toNat ≤ s'.cap → s'.fsz = s.fsz → s'.cfg.pidCsma = s.cfg.pidCsma →
    (∀ o, inReadSet s o → s'.frByte o = s.frByte o) →
    ∃ t t', exec .parse s = .next t ∧ exec .parse s' = .next t'
      ∧ (respondedOk t ↔ respondedOk t') ∧ (respondedOk t → t'.desc = t.desc ∧ t'.valid = t.valid)

/-- A successful `PARSE` may be repeated: it gives the same result and the same state (43_parser.md R180,
70_reset_and_hazards.md R260). -/
def Obligations.ParseIsRepeatable : Prop :=
  ∀ s t : State, exec .parse s = .next t → respondedOk t → exec .parse t = .next t

/-! ### The wire-format contract -/

/-- Building and then parsing recovers every descriptor: for every frame built by `NEW_TX; SET_PROTOCOL PID_CSMA` and
setters, the host not overwriting encoded bytes but the payload, `NEW_RX` of its bytes and `PARSE`, in any instance
they fit and that has the same Protocol-Id, answer `ok` with descriptors 4 to 21, `FSZ` and payload equal to the
builder's (43_parser.md R190). -/
def Obligations.BuildingThenParsingRecoversTheFrame : Prop :=
  ∀ s t s' : State, BuildRun s t → t.fsz.toNat ≤ s'.fcap → s'.cfg.pidCsma = s.cfg.pidCsma →
    ∃ u v, exec (.newRx t.frameBytes) s' = .next u ∧ exec .parse u = .next v
      ∧ respondedOk v ∧ v.valid = true ∧ v.desc = t.desc ∧ v.fsz = t.fsz ∧ v.payloadBytes = t.payloadBytes

/-- The bytes of a built frame are its fields laid out in order, with the Frame-Control byte of exactly the fields set,
no IE region and no integrity field (30_encoding.md R91, R103, 41_builder_header.md R147). -/
def Obligations.BuiltFrameIsItsFieldsInOrder : Prop :=
  ∀ s t : State, BuildRun s t → t.frameBytes = t.frame.bytes ∧ t.frame.ok s.cfg.pidCsma
    ∧ ∃ (n : Bool) (dam sam mam : BitVec 2), dam ≠ 3 ∧ sam ≠ 3 ∧ mam ≠ 3
        ∧ t.desc.fctl = builderFctl n dam sam mam ∧ t.desc.ieSz = 0 ∧ t.desc.micSz = 0

/-- Multi-byte fields are little-endian: reading 2 or 8 bytes at any frame offset, odd or even, assembles them with the
byte at the lowest offset least significant (20_memory.md R62, R63, R68). -/
def Obligations.MultiByteReadsAreLittleEndian : Prop :=
  ∀ (s : State) (o : Nat),
    s.frRead o 2 = (s.frByte (o + 1) ++ s.frByte o).setWidth 64
    ∧ s.frRead o 8 = s.frByte (o + 7) ++ s.frByte (o + 6) ++ s.frByte (o + 5) ++ s.frByte (o + 4)
        ++ s.frByte (o + 3) ++ s.frByte (o + 2) ++ s.frByte (o + 1) ++ s.frByte o

/-- A value written in 2 or 8 bytes at a frame offset reads back as the value, the short form zero-extended
(00_scope.md R10, 30_encoding.md R95). -/
def Obligations.WrittenFieldReadsBack : Prop :=
  ∀ (s : State) (o : Nat) (v : Long),
    (s.frWrite o (leBytes 8 v)).frRead o 8 = v
    ∧ (s.frWrite o (leBytes 2 v)).frRead o 2 = (v.setWidth 16).setWidth 64

/-! ### Buffer port and register port -/

/-- `BUF_RD addr` (44_access.md R200): the byte at the absolute address, no state changed; beyond the buffer it fails
with an arbitrary byte. -/
def Obligations.BufRdReadsOneByte : Prop :=
  ∀ (s : State) (addr : Half),
    (addr.toNat < s.cap → exec (.bufRd addr) s =
        .next { s with resp := some { ok := true, rdata := .byte (s.bufByte addr.toNat), cause := none } })
    ∧ (s.cap ≤ addr.toNat → ∃ t b, exec (.bufRd addr) s = .next t
        ∧ t = { s with draws := t.draws, resp := some { ok := false, rdata := .byte b, cause := some .range } })

/-- `BUF_WR addr, b` (44_access.md R201): one byte stored and nothing else; beyond the buffer it fails and changes
nothing. -/
def Obligations.BufWrStoresOneByte : Prop :=
  ∀ (s : State) (addr : Half) (b : Byte),
    (addr.toNat < s.cap → ∃ t, exec (.bufWr addr b) s = .next t
        ∧ t = { s with buf := t.buf, resp := some okResponse }
        ∧ ∀ x, t.bufByte x = if x = addr.toNat then b else s.bufByte x)
    ∧ (s.cap ≤ addr.toNat → exec (.bufWr addr b) s = .next (failed s .range))

/-- `REG_RD idx` (44_access.md R203): the register of that number zero-extended, for each of the 28; the reserved
numbers 28 to 63 fail with arbitrary data. -/
def Obligations.RegRdReadsEveryRegister : Prop :=
  ∀ (s : State) (idx : BitVec 6),
    (∀ h : idx.toNat < (registerFile s).length, ∃ v : Long, v.toNat = (registerFile s)[idx.toNat]
        ∧ exec (.regRd idx) s = .next { s with resp := some { ok := true, rdata := .word v, cause := none } })
    ∧ (28 ≤ idx.toNat → ∃ t v, exec (.regRd idx) s = .next t
        ∧ t = { s with draws := t.draws, resp := some { ok := false, rdata := .word v, cause := some .reg } })

/-- When the descriptors describe the frame, every byte of the IE region, the payload and the integrity field can be
read through the buffer port (44_access.md R205). -/
def Obligations.DescribedFieldBytesAreReadable : Prop :=
  ∀ (s : State) (addr : Half), Inv s → s.described = true →
    ((s.headroom + s.desc.ieOff.toNat ≤ addr.toNat
        ∧ addr.toNat < s.headroom + s.desc.ieOff.toNat + s.desc.ieSz.toNat)
      ∨ (s.payldPtr ≤ addr.toNat ∧ addr.toNat < s.payldPtr + s.desc.payldSz.toNat)
      ∨ (s.headroom + s.desc.micOff.toNat ≤ addr.toNat
        ∧ addr.toNat < s.headroom + s.desc.micOff.toNat + s.desc.micSz.toNat)) →
    ∃ t, exec (.bufRd addr) s = .next t ∧ respondedOk t

/-! ### Rules of the whole machine -/

/-- A failing operation has no effect, but for a `PARSE` format failure: every register and every buffer byte is as
before (60_exceptions.md R220, R222, R223, R225). -/
def Obligations.FailureLeavesTheStateUnchanged : Prop :=
  ∀ (i : Instr) (s t : State), exec i s = .next t → respondedFail t → (i = .parse → s.mode ≠ .rx) →
    t = { s with resp := t.resp, draws := t.draws }

/-- After any operation that leaves the state as it was, a failed one among them, the next operation does what it would
have done (60_exceptions.md R229): no operation depends on the last response. -/
def Obligations.NoOperationDependsOnTheLastResponse : Prop :=
  ∀ (i : Instr) (s : State) (r : Option Response), exec i { s with resp := r } = exec i s

/-- Mode changes happen only by `DISCARD`, `NEW_TX`, `NEW_RX` (60_exceptions.md R236). -/
def Obligations.OnlyLifecycleOperationsChangeTheMode : Prop :=
  ∀ (i : Instr) (s t : State), exec i s = .next t → t.mode ≠ s.mode → isLifecycle i = true ∧ respondedOk t

/-- The cursor only advances forward and the stage never falls, but for the constructing operations (10_state.md R22,
R24). -/
def Obligations.CursorAndStageOnlyAdvance : Prop :=
  ∀ (i : Instr) (s t : State), Inv s → isLifecycle i = false → exec i s = .next t →
    s.fsz.toNat ≤ t.fsz.toNat ∧ stageCode s.stage ≤ stageCode t.stage

/-- An address width, once chosen for a role, is fixed for that frame, as is a field already present (10_state.md R24,
R30). -/
def Obligations.AddressWidthIsFixedOnceChosen : Prop :=
  ∀ (i : Instr) (s t : State), Inv s → s.mode = .tx → isLifecycle i = false → exec i s = .next t →
    (fctlDam s.desc.fctl ≠ 0 → fctlDam t.desc.fctl = fctlDam s.desc.fctl ∧ t.desc.dst = s.desc.dst)
    ∧ (fctlSam s.desc.fctl ≠ 0 → fctlSam t.desc.fctl = fctlSam s.desc.fctl ∧ t.desc.src = s.desc.src)
    ∧ (fctlMam s.desc.fctl ≠ 0 → fctlMam t.desc.fctl = fctlMam s.desc.fctl ∧ t.desc.txaddr = s.desc.txaddr)

/-- `VALID` is 0 after every constructing operation, the result of the last `PARSE` in RX mode, and changed by nothing
else (10_state.md R27). -/
def Obligations.ValidIsTheLastParseResult : Prop :=
  ∀ (i : Instr) (s t : State), exec i s = .next t →
    t.valid =
      if isLifecycle i = true ∧ respondedOk t then false
      else if i = .parse ∧ s.mode = .rx then decide (respondedOk t)
      else s.valid

/-- No step changes a parameter (00_scope.md R5). -/
def Obligations.ParametersNeverChange : Prop :=
  ∀ s t : State, step s = .next t → t.cfg = s.cfg

/-- No operation but `BUF_WR` writes the headroom (20_memory.md R64, R65). -/
def Obligations.HeadroomIsWrittenOnlyThroughTheBufferPort : Prop :=
  ∀ (i : Instr) (s t : State), (∀ a b, i ≠ .bufWr a b) → exec i s = .next t →
    ∀ x, x < s.headroom → t.bufByte x = s.bufByte x

/-- No setter writes the last `MIC_RSVD` bytes of the buffer (20_memory.md R64, R66). -/
def Obligations.SettersNeverWriteTheReservedTail : Prop :=
  ∀ (i : Instr) (s t : State), wellFormedConfig s.cfg = true → isSetter i = true → exec i s = .next t →
    ∀ x, s.cap - s.rsvd ≤ x → t.bufByte x = s.bufByte x
end

