-- ==== Sys2Proof/Laws/Encoding.lean ====
section
/-! SUPPORT. The fields of a port word built from its fields. -/

namespace Sys2Proof

@[simp] theorem cwOp_mkCW (op : BitVec 4) (h : Byte) (l : Half) (a : Long) : cwOp (mkCW op h l a) = op := by
  unfold cwOp mkCW
  ext i hi
  simp only [BitVec.getElem_extractLsb', BitVec.getLsbD_append]
  simp [show ¬ 88 + i < 64 by omega, show ¬ 88 + i - 64 < 16 by omega, show ¬ 88 + i - 64 - 16 < 8 by omega,
    show 88 + i - 64 - 16 - 8 = i by omega, BitVec.getLsbD_eq_getElem hi]

@[simp] theorem cwHops_mkCW (op : BitVec 4) (h : Byte) (l : Half) (a : Long) : cwHops (mkCW op h l a) = h := by
  unfold cwHops mkCW
  ext i hi
  simp only [BitVec.getElem_extractLsb', BitVec.getLsbD_append]
  simp [show ¬ 80 + i < 64 by omega, show ¬ 80 + i - 64 < 16 by omega, show 80 + i - 64 - 16 = i by omega,
    BitVec.getLsbD_eq_getElem hi]
  intro; omega

@[simp] theorem cwLen_mkCW (op : BitVec 4) (h : Byte) (l : Half) (a : Long) : cwLen (mkCW op h l a) = l := by
  unfold cwLen mkCW
  ext i hi
  simp only [BitVec.getElem_extractLsb', BitVec.getLsbD_append]
  simp [show ¬ 64 + i < 64 by omega, show 64 + i - 64 = i by omega, BitVec.getLsbD_eq_getElem hi]
  intro; omega

@[simp] theorem cwArg_mkCW (op : BitVec 4) (h : Byte) (l : Half) (a : Long) : cwArg (mkCW op h l a) = a := by
  unfold cwArg mkCW
  ext i hi
  simp only [BitVec.getElem_extractLsb', BitVec.getLsbD_append]
  simp [hi]

@[simp] theorem bwWe_mkBW (w : BitVec 1) (a : Half) (d : Byte) : bwWe (mkBW w a d) = w := by
  unfold bwWe mkBW
  ext i hi
  simp only [BitVec.getElem_extractLsb', BitVec.getLsbD_append]
  simp [show ¬ 24 + i < 8 by omega, show ¬ 24 + i - 8 < 16 by omega, show 24 + i - 8 - 16 = i by omega,
    BitVec.getLsbD_eq_getElem hi]

@[simp] theorem bwAddr_mkBW (w : BitVec 1) (a : Half) (d : Byte) : bwAddr (mkBW w a d) = a := by
  unfold bwAddr mkBW
  ext i hi
  simp only [BitVec.getElem_extractLsb', BitVec.getLsbD_append]
  simp [show ¬ 8 + i < 8 by omega, show 8 + i - 8 = i by omega, BitVec.getLsbD_eq_getElem hi]
  intro; omega

@[simp] theorem bwData_mkBW (w : BitVec 1) (a : Half) (d : Byte) : bwData (mkBW w a d) = d := by
  unfold bwData mkBW
  ext i hi
  simp only [BitVec.getElem_extractLsb', BitVec.getLsbD_append]
  simp [hi]

/-- Everything `withData` can answer. -/
theorem withData_ok {len : Half} {data : List Byte} {mk : List Byte → Instr} {i : Instr}
    (h : withData len data mk = .ok i) : data.length = len.toNat ∧ i = mk data := by
  unfold withData at h
  split at h
  · exact ⟨‹_›, by cases h; rfl⟩
  · cases h

/-- A command word is at least 2^88 times its operation code, and less than one code more. -/
theorem mkCW_toNat_div (op : BitVec 4) (h : Byte) (l : Half) (a : Long) :
    (mkCW op h l a).toNat / 2 ^ 88 = op.toNat := by
  have := congrArg BitVec.toNat (cwOp_mkCW op h l a)
  unfold cwOp at this
  rw [BitVec.extractLsb'_toNat, Nat.shiftRight_eq_div_pow, Nat.mod_eq_of_lt] at this
  · exact this
  · have := (mkCW op h l a).isLt
    omega

end Sys2Proof
end

