-- ==== Sys2Proof/Laws/State.lean ====
section
/-! SUPPORT. One lemma per field per update of the state, so that no proof unfolds a record update. -/

namespace Sys2Proof.Machine

variable (s : State)

/-! ### `State.respond` -/

@[simp] theorem State.respond_cfg (r : Response) : (s.respond r).cfg = s.cfg := rfl
@[simp] theorem State.respond_mode (r : Response) : (s.respond r).mode = s.mode := rfl
@[simp] theorem State.respond_stage (r : Response) : (s.respond r).stage = s.stage := rfl
@[simp] theorem State.respond_valid (r : Response) : (s.respond r).valid = s.valid := rfl
@[simp] theorem State.respond_fsz (r : Response) : (s.respond r).fsz = s.fsz := rfl
@[simp] theorem State.respond_desc (r : Response) : (s.respond r).desc = s.desc := rfl
@[simp] theorem State.respond_buf (r : Response) : (s.respond r).buf = s.buf := rfl
@[simp] theorem State.respond_inputs (r : Response) : (s.respond r).inputs = s.inputs := rfl
@[simp] theorem State.respond_resp (r : Response) : (s.respond r).resp = some r := rfl
@[simp] theorem State.respond_epoch (r : Response) : (s.respond r).epoch = s.epoch := rfl
@[simp] theorem State.respond_draws (r : Response) : (s.respond r).draws = s.draws := rfl
@[simp] theorem State.respond_cap (r : Response) : (s.respond r).cap = s.cap := rfl
@[simp] theorem State.respond_headroom (r : Response) : (s.respond r).headroom = s.headroom := rfl
@[simp] theorem State.respond_rsvd (r : Response) : (s.respond r).rsvd = s.rsvd := rfl
@[simp] theorem State.respond_fcap (r : Response) : (s.respond r).fcap = s.fcap := rfl

/-! ### `State.setFsz` -/

@[simp] theorem State.setFsz_cfg (n : Nat) : (s.setFsz n).cfg = s.cfg := rfl
@[simp] theorem State.setFsz_mode (n : Nat) : (s.setFsz n).mode = s.mode := rfl
@[simp] theorem State.setFsz_stage (n : Nat) : (s.setFsz n).stage = s.stage := rfl
@[simp] theorem State.setFsz_valid (n : Nat) : (s.setFsz n).valid = s.valid := rfl
@[simp] theorem State.setFsz_fsz (n : Nat) : (s.setFsz n).fsz = BitVec.ofNat 16 n := rfl
@[simp] theorem State.setFsz_desc (n : Nat) : (s.setFsz n).desc = s.desc := rfl
@[simp] theorem State.setFsz_buf (n : Nat) : (s.setFsz n).buf = s.buf := rfl
@[simp] theorem State.setFsz_inputs (n : Nat) : (s.setFsz n).inputs = s.inputs := rfl
@[simp] theorem State.setFsz_resp (n : Nat) : (s.setFsz n).resp = s.resp := rfl
@[simp] theorem State.setFsz_epoch (n : Nat) : (s.setFsz n).epoch = s.epoch := rfl
@[simp] theorem State.setFsz_draws (n : Nat) : (s.setFsz n).draws = s.draws := rfl
@[simp] theorem State.setFsz_cap (n : Nat) : (s.setFsz n).cap = s.cap := rfl
@[simp] theorem State.setFsz_headroom (n : Nat) : (s.setFsz n).headroom = s.headroom := rfl
@[simp] theorem State.setFsz_rsvd (n : Nat) : (s.setFsz n).rsvd = s.rsvd := rfl
@[simp] theorem State.setFsz_fcap (n : Nat) : (s.setFsz n).fcap = s.fcap := rfl

/-! ### `State.setStage` -/

@[simp] theorem State.setStage_cfg (k : Stage) : (s.setStage k).cfg = s.cfg := rfl
@[simp] theorem State.setStage_mode (k : Stage) : (s.setStage k).mode = s.mode := rfl
@[simp] theorem State.setStage_stage (k : Stage) : (s.setStage k).stage = k := rfl
@[simp] theorem State.setStage_valid (k : Stage) : (s.setStage k).valid = s.valid := rfl
@[simp] theorem State.setStage_fsz (k : Stage) : (s.setStage k).fsz = s.fsz := rfl
@[simp] theorem State.setStage_desc (k : Stage) : (s.setStage k).desc = s.desc := rfl
@[simp] theorem State.setStage_buf (k : Stage) : (s.setStage k).buf = s.buf := rfl
@[simp] theorem State.setStage_inputs (k : Stage) : (s.setStage k).inputs = s.inputs := rfl
@[simp] theorem State.setStage_resp (k : Stage) : (s.setStage k).resp = s.resp := rfl
@[simp] theorem State.setStage_epoch (k : Stage) : (s.setStage k).epoch = s.epoch := rfl
@[simp] theorem State.setStage_draws (k : Stage) : (s.setStage k).draws = s.draws := rfl
@[simp] theorem State.setStage_cap (k : Stage) : (s.setStage k).cap = s.cap := rfl
@[simp] theorem State.setStage_headroom (k : Stage) : (s.setStage k).headroom = s.headroom := rfl
@[simp] theorem State.setStage_rsvd (k : Stage) : (s.setStage k).rsvd = s.rsvd := rfl
@[simp] theorem State.setStage_fcap (k : Stage) : (s.setStage k).fcap = s.fcap := rfl

/-! ### `State.setMode` -/

@[simp] theorem State.setMode_cfg (m : Mode) : (s.setMode m).cfg = s.cfg := rfl
@[simp] theorem State.setMode_mode (m : Mode) : (s.setMode m).mode = m := rfl
@[simp] theorem State.setMode_stage (m : Mode) : (s.setMode m).stage = s.stage := rfl
@[simp] theorem State.setMode_valid (m : Mode) : (s.setMode m).valid = s.valid := rfl
@[simp] theorem State.setMode_fsz (m : Mode) : (s.setMode m).fsz = s.fsz := rfl
@[simp] theorem State.setMode_desc (m : Mode) : (s.setMode m).desc = s.desc := rfl
@[simp] theorem State.setMode_buf (m : Mode) : (s.setMode m).buf = s.buf := rfl
@[simp] theorem State.setMode_inputs (m : Mode) : (s.setMode m).inputs = s.inputs := rfl
@[simp] theorem State.setMode_resp (m : Mode) : (s.setMode m).resp = s.resp := rfl
@[simp] theorem State.setMode_epoch (m : Mode) : (s.setMode m).epoch = s.epoch := rfl
@[simp] theorem State.setMode_draws (m : Mode) : (s.setMode m).draws = s.draws := rfl
@[simp] theorem State.setMode_cap (m : Mode) : (s.setMode m).cap = s.cap := rfl
@[simp] theorem State.setMode_headroom (m : Mode) : (s.setMode m).headroom = s.headroom := rfl
@[simp] theorem State.setMode_rsvd (m : Mode) : (s.setMode m).rsvd = s.rsvd := rfl
@[simp] theorem State.setMode_fcap (m : Mode) : (s.setMode m).fcap = s.fcap := rfl

/-! ### `State.setValid` -/

@[simp] theorem State.setValid_cfg (v : Bool) : (s.setValid v).cfg = s.cfg := rfl
@[simp] theorem State.setValid_mode (v : Bool) : (s.setValid v).mode = s.mode := rfl
@[simp] theorem State.setValid_stage (v : Bool) : (s.setValid v).stage = s.stage := rfl
@[simp] theorem State.setValid_valid (v : Bool) : (s.setValid v).valid = v := rfl
@[simp] theorem State.setValid_fsz (v : Bool) : (s.setValid v).fsz = s.fsz := rfl
@[simp] theorem State.setValid_desc (v : Bool) : (s.setValid v).desc = s.desc := rfl
@[simp] theorem State.setValid_buf (v : Bool) : (s.setValid v).buf = s.buf := rfl
@[simp] theorem State.setValid_inputs (v : Bool) : (s.setValid v).inputs = s.inputs := rfl
@[simp] theorem State.setValid_resp (v : Bool) : (s.setValid v).resp = s.resp := rfl
@[simp] theorem State.setValid_epoch (v : Bool) : (s.setValid v).epoch = s.epoch := rfl
@[simp] theorem State.setValid_draws (v : Bool) : (s.setValid v).draws = s.draws := rfl
@[simp] theorem State.setValid_cap (v : Bool) : (s.setValid v).cap = s.cap := rfl
@[simp] theorem State.setValid_headroom (v : Bool) : (s.setValid v).headroom = s.headroom := rfl
@[simp] theorem State.setValid_rsvd (v : Bool) : (s.setValid v).rsvd = s.rsvd := rfl
@[simp] theorem State.setValid_fcap (v : Bool) : (s.setValid v).fcap = s.fcap := rfl

/-! ### `State.setDesc` -/

@[simp] theorem State.setDesc_cfg (d : Desc) : (s.setDesc d).cfg = s.cfg := rfl
@[simp] theorem State.setDesc_mode (d : Desc) : (s.setDesc d).mode = s.mode := rfl
@[simp] theorem State.setDesc_stage (d : Desc) : (s.setDesc d).stage = s.stage := rfl
@[simp] theorem State.setDesc_valid (d : Desc) : (s.setDesc d).valid = s.valid := rfl
@[simp] theorem State.setDesc_fsz (d : Desc) : (s.setDesc d).fsz = s.fsz := rfl
@[simp] theorem State.setDesc_desc (d : Desc) : (s.setDesc d).desc = d := rfl
@[simp] theorem State.setDesc_buf (d : Desc) : (s.setDesc d).buf = s.buf := rfl
@[simp] theorem State.setDesc_inputs (d : Desc) : (s.setDesc d).inputs = s.inputs := rfl
@[simp] theorem State.setDesc_resp (d : Desc) : (s.setDesc d).resp = s.resp := rfl
@[simp] theorem State.setDesc_epoch (d : Desc) : (s.setDesc d).epoch = s.epoch := rfl
@[simp] theorem State.setDesc_draws (d : Desc) : (s.setDesc d).draws = s.draws := rfl
@[simp] theorem State.setDesc_cap (d : Desc) : (s.setDesc d).cap = s.cap := rfl
@[simp] theorem State.setDesc_headroom (d : Desc) : (s.setDesc d).headroom = s.headroom := rfl
@[simp] theorem State.setDesc_rsvd (d : Desc) : (s.setDesc d).rsvd = s.rsvd := rfl
@[simp] theorem State.setDesc_fcap (d : Desc) : (s.setDesc d).fcap = s.fcap := rfl

/-! ### `State.advanceDraws` -/

@[simp] theorem State.advanceDraws_cfg (k : Nat) : (s.advanceDraws k).cfg = s.cfg := rfl
@[simp] theorem State.advanceDraws_mode (k : Nat) : (s.advanceDraws k).mode = s.mode := rfl
@[simp] theorem State.advanceDraws_stage (k : Nat) : (s.advanceDraws k).stage = s.stage := rfl
@[simp] theorem State.advanceDraws_valid (k : Nat) : (s.advanceDraws k).valid = s.valid := rfl
@[simp] theorem State.advanceDraws_fsz (k : Nat) : (s.advanceDraws k).fsz = s.fsz := rfl
@[simp] theorem State.advanceDraws_desc (k : Nat) : (s.advanceDraws k).desc = s.desc := rfl
@[simp] theorem State.advanceDraws_buf (k : Nat) : (s.advanceDraws k).buf = s.buf := rfl
@[simp] theorem State.advanceDraws_inputs (k : Nat) : (s.advanceDraws k).inputs = s.inputs := rfl
@[simp] theorem State.advanceDraws_resp (k : Nat) : (s.advanceDraws k).resp = s.resp := rfl
@[simp] theorem State.advanceDraws_epoch (k : Nat) : (s.advanceDraws k).epoch = s.epoch := rfl
@[simp] theorem State.advanceDraws_draws (k : Nat) : (s.advanceDraws k).draws = s.draws + k := rfl
@[simp] theorem State.advanceDraws_cap (k : Nat) : (s.advanceDraws k).cap = s.cap := rfl
@[simp] theorem State.advanceDraws_headroom (k : Nat) : (s.advanceDraws k).headroom = s.headroom := rfl
@[simp] theorem State.advanceDraws_rsvd (k : Nat) : (s.advanceDraws k).rsvd = s.rsvd := rfl
@[simp] theorem State.advanceDraws_fcap (k : Nat) : (s.advanceDraws k).fcap = s.fcap := rfl

/-! ### `State.store` -/

@[simp] theorem State.store_cfg (a : Nat) (bs : List Byte) : (s.store a bs).cfg = s.cfg := rfl
@[simp] theorem State.store_mode (a : Nat) (bs : List Byte) : (s.store a bs).mode = s.mode := rfl
@[simp] theorem State.store_stage (a : Nat) (bs : List Byte) : (s.store a bs).stage = s.stage := rfl
@[simp] theorem State.store_valid (a : Nat) (bs : List Byte) : (s.store a bs).valid = s.valid := rfl
@[simp] theorem State.store_fsz (a : Nat) (bs : List Byte) : (s.store a bs).fsz = s.fsz := rfl
@[simp] theorem State.store_desc (a : Nat) (bs : List Byte) : (s.store a bs).desc = s.desc := rfl
@[simp] theorem State.store_buf (a : Nat) (bs : List Byte) : (s.store a bs).buf = Memory.writeList s.buf a bs := rfl
@[simp] theorem State.store_inputs (a : Nat) (bs : List Byte) : (s.store a bs).inputs = s.inputs := rfl
@[simp] theorem State.store_resp (a : Nat) (bs : List Byte) : (s.store a bs).resp = s.resp := rfl
@[simp] theorem State.store_epoch (a : Nat) (bs : List Byte) : (s.store a bs).epoch = s.epoch := rfl
@[simp] theorem State.store_draws (a : Nat) (bs : List Byte) : (s.store a bs).draws = s.draws := rfl
@[simp] theorem State.store_cap (a : Nat) (bs : List Byte) : (s.store a bs).cap = s.cap := rfl
@[simp] theorem State.store_headroom (a : Nat) (bs : List Byte) : (s.store a bs).headroom = s.headroom := rfl
@[simp] theorem State.store_rsvd (a : Nat) (bs : List Byte) : (s.store a bs).rsvd = s.rsvd := rfl
@[simp] theorem State.store_fcap (a : Nat) (bs : List Byte) : (s.store a bs).fcap = s.fcap := rfl

/-! ### `State.frWrite` -/

@[simp] theorem State.frWrite_cfg (o : Nat) (bs : List Byte) : (s.frWrite o bs).cfg = s.cfg := rfl
@[simp] theorem State.frWrite_mode (o : Nat) (bs : List Byte) : (s.frWrite o bs).mode = s.mode := rfl
@[simp] theorem State.frWrite_stage (o : Nat) (bs : List Byte) : (s.frWrite o bs).stage = s.stage := rfl
@[simp] theorem State.frWrite_valid (o : Nat) (bs : List Byte) : (s.frWrite o bs).valid = s.valid := rfl
@[simp] theorem State.frWrite_fsz (o : Nat) (bs : List Byte) : (s.frWrite o bs).fsz = s.fsz := rfl
@[simp] theorem State.frWrite_desc (o : Nat) (bs : List Byte) : (s.frWrite o bs).desc = s.desc := rfl
@[simp] theorem State.frWrite_buf (o : Nat) (bs : List Byte) : (s.frWrite o bs).buf = Memory.writeList s.buf (s.headroom + o) bs := rfl
@[simp] theorem State.frWrite_inputs (o : Nat) (bs : List Byte) : (s.frWrite o bs).inputs = s.inputs := rfl
@[simp] theorem State.frWrite_resp (o : Nat) (bs : List Byte) : (s.frWrite o bs).resp = s.resp := rfl
@[simp] theorem State.frWrite_epoch (o : Nat) (bs : List Byte) : (s.frWrite o bs).epoch = s.epoch := rfl
@[simp] theorem State.frWrite_draws (o : Nat) (bs : List Byte) : (s.frWrite o bs).draws = s.draws := rfl
@[simp] theorem State.frWrite_cap (o : Nat) (bs : List Byte) : (s.frWrite o bs).cap = s.cap := rfl
@[simp] theorem State.frWrite_headroom (o : Nat) (bs : List Byte) : (s.frWrite o bs).headroom = s.headroom := rfl
@[simp] theorem State.frWrite_rsvd (o : Nat) (bs : List Byte) : (s.frWrite o bs).rsvd = s.rsvd := rfl
@[simp] theorem State.frWrite_fcap (o : Nat) (bs : List Byte) : (s.frWrite o bs).fcap = s.fcap := rfl

/-! ### `State.clearRegs` -/

@[simp] theorem State.clearRegs_cfg : (s.clearRegs).cfg = s.cfg := rfl
@[simp] theorem State.clearRegs_mode : (s.clearRegs).mode = .idle := rfl
@[simp] theorem State.clearRegs_stage : (s.clearRegs).stage = .empty := rfl
@[simp] theorem State.clearRegs_valid : (s.clearRegs).valid = false := rfl
@[simp] theorem State.clearRegs_fsz : (s.clearRegs).fsz = 0 := rfl
@[simp] theorem State.clearRegs_desc : (s.clearRegs).desc = Desc.zero := rfl
@[simp] theorem State.clearRegs_buf : (s.clearRegs).buf = s.buf := rfl
@[simp] theorem State.clearRegs_inputs : (s.clearRegs).inputs = s.inputs := rfl
@[simp] theorem State.clearRegs_resp : (s.clearRegs).resp = s.resp := rfl
@[simp] theorem State.clearRegs_epoch : (s.clearRegs).epoch = s.epoch := rfl
@[simp] theorem State.clearRegs_draws : (s.clearRegs).draws = s.draws := rfl
@[simp] theorem State.clearRegs_cap : (s.clearRegs).cap = s.cap := rfl
@[simp] theorem State.clearRegs_headroom : (s.clearRegs).headroom = s.headroom := rfl
@[simp] theorem State.clearRegs_rsvd : (s.clearRegs).rsvd = s.rsvd := rfl
@[simp] theorem State.clearRegs_fcap : (s.clearRegs).fcap = s.fcap := rfl

/-! ### `State.orFctl` -/

@[simp] theorem State.orFctl_cfg (m : Byte) : (s.orFctl m).cfg = s.cfg := rfl
@[simp] theorem State.orFctl_mode (m : Byte) : (s.orFctl m).mode = s.mode := rfl
@[simp] theorem State.orFctl_stage (m : Byte) : (s.orFctl m).stage = s.stage := rfl
@[simp] theorem State.orFctl_valid (m : Byte) : (s.orFctl m).valid = s.valid := rfl
@[simp] theorem State.orFctl_fsz (m : Byte) : (s.orFctl m).fsz = s.fsz := rfl
@[simp] theorem State.orFctl_desc (m : Byte) : (s.orFctl m).desc = { s.desc with fctl := s.desc.fctl ||| m } := rfl
@[simp] theorem State.orFctl_buf (m : Byte) : (s.orFctl m).buf = Memory.writeList s.buf (s.headroom + 1) [s.desc.fctl ||| m] := rfl
@[simp] theorem State.orFctl_inputs (m : Byte) : (s.orFctl m).inputs = s.inputs := rfl
@[simp] theorem State.orFctl_resp (m : Byte) : (s.orFctl m).resp = s.resp := rfl
@[simp] theorem State.orFctl_epoch (m : Byte) : (s.orFctl m).epoch = s.epoch := rfl
@[simp] theorem State.orFctl_draws (m : Byte) : (s.orFctl m).draws = s.draws := rfl
@[simp] theorem State.orFctl_cap (m : Byte) : (s.orFctl m).cap = s.cap := rfl
@[simp] theorem State.orFctl_headroom (m : Byte) : (s.orFctl m).headroom = s.headroom := rfl
@[simp] theorem State.orFctl_rsvd (m : Byte) : (s.orFctl m).rsvd = s.rsvd := rfl
@[simp] theorem State.orFctl_fcap (m : Byte) : (s.orFctl m).fcap = s.fcap := rfl

/-! ### `State.endField` -/

@[simp] theorem State.endField_cfg (k : Stage) : (s.endField k).cfg = s.cfg := rfl
@[simp] theorem State.endField_mode (k : Stage) : (s.endField k).mode = s.mode := rfl
@[simp] theorem State.endField_stage (k : Stage) : (s.endField k).stage = k := rfl
@[simp] theorem State.endField_valid (k : Stage) : (s.endField k).valid = s.valid := rfl
@[simp] theorem State.endField_fsz (k : Stage) : (s.endField k).fsz = s.fsz := rfl
@[simp] theorem State.endField_desc (k : Stage) : (s.endField k).desc = s.desc.tail s.fsz k := rfl
@[simp] theorem State.endField_buf (k : Stage) : (s.endField k).buf = s.buf := rfl
@[simp] theorem State.endField_inputs (k : Stage) : (s.endField k).inputs = s.inputs := rfl
@[simp] theorem State.endField_resp (k : Stage) : (s.endField k).resp = s.resp := rfl
@[simp] theorem State.endField_epoch (k : Stage) : (s.endField k).epoch = s.epoch := rfl
@[simp] theorem State.endField_draws (k : Stage) : (s.endField k).draws = s.draws := rfl
@[simp] theorem State.endField_cap (k : Stage) : (s.endField k).cap = s.cap := rfl
@[simp] theorem State.endField_headroom (k : Stage) : (s.endField k).headroom = s.headroom := rfl
@[simp] theorem State.endField_rsvd (k : Stage) : (s.endField k).rsvd = s.rsvd := rfl
@[simp] theorem State.endField_fcap (k : Stage) : (s.endField k).fcap = s.fcap := rfl

/-! ### `State.appendField` -/

@[simp] theorem State.appendField_cfg (d : Desc) (bs : List Byte) : (s.appendField d bs).cfg = s.cfg := rfl
@[simp] theorem State.appendField_mode (d : Desc) (bs : List Byte) : (s.appendField d bs).mode = s.mode := rfl
@[simp] theorem State.appendField_stage (d : Desc) (bs : List Byte) : (s.appendField d bs).stage = s.stage := rfl
@[simp] theorem State.appendField_valid (d : Desc) (bs : List Byte) : (s.appendField d bs).valid = s.valid := rfl
@[simp] theorem State.appendField_fsz (d : Desc) (bs : List Byte) : (s.appendField d bs).fsz = BitVec.ofNat 16 (s.fsz.toNat + bs.length) := rfl
@[simp] theorem State.appendField_desc (d : Desc) (bs : List Byte) : (s.appendField d bs).desc = d := rfl
@[simp] theorem State.appendField_buf (d : Desc) (bs : List Byte) : (s.appendField d bs).buf = Memory.writeList s.buf (s.headroom + s.fsz.toNat) bs := rfl
@[simp] theorem State.appendField_inputs (d : Desc) (bs : List Byte) : (s.appendField d bs).inputs = s.inputs := rfl
@[simp] theorem State.appendField_resp (d : Desc) (bs : List Byte) : (s.appendField d bs).resp = s.resp := rfl
@[simp] theorem State.appendField_epoch (d : Desc) (bs : List Byte) : (s.appendField d bs).epoch = s.epoch := rfl
@[simp] theorem State.appendField_draws (d : Desc) (bs : List Byte) : (s.appendField d bs).draws = s.draws := rfl
@[simp] theorem State.appendField_cap (d : Desc) (bs : List Byte) : (s.appendField d bs).cap = s.cap := rfl
@[simp] theorem State.appendField_headroom (d : Desc) (bs : List Byte) : (s.appendField d bs).headroom = s.headroom := rfl
@[simp] theorem State.appendField_rsvd (d : Desc) (bs : List Byte) : (s.appendField d bs).rsvd = s.rsvd := rfl
@[simp] theorem State.appendField_fcap (d : Desc) (bs : List Byte) : (s.appendField d bs).fcap = s.fcap := rfl

/-! ### `State.takeReset` -/

@[simp] theorem State.takeReset_cfg : (s.takeReset).cfg = s.cfg := rfl
@[simp] theorem State.takeReset_mode : (s.takeReset).mode = .idle := rfl
@[simp] theorem State.takeReset_stage : (s.takeReset).stage = .empty := rfl
@[simp] theorem State.takeReset_valid : (s.takeReset).valid = false := rfl
@[simp] theorem State.takeReset_fsz : (s.takeReset).fsz = 0 := rfl
@[simp] theorem State.takeReset_desc : (s.takeReset).desc = Desc.zero := rfl
@[simp] theorem State.takeReset_buf : (s.takeReset).buf = [] := rfl
@[simp] theorem State.takeReset_inputs : (s.takeReset).inputs = s.inputs := rfl
@[simp] theorem State.takeReset_resp : (s.takeReset).resp = none := rfl
@[simp] theorem State.takeReset_epoch : (s.takeReset).epoch = s.epoch + 1 := rfl
@[simp] theorem State.takeReset_draws : (s.takeReset).draws = s.draws := rfl
@[simp] theorem State.takeReset_cap : (s.takeReset).cap = s.cap := rfl
@[simp] theorem State.takeReset_headroom : (s.takeReset).headroom = s.headroom := rfl
@[simp] theorem State.takeReset_rsvd : (s.takeReset).rsvd = s.rsvd := rfl
@[simp] theorem State.takeReset_fcap : (s.takeReset).fcap = s.fcap := rfl

/-! ### `State.dropInput` -/

@[simp] theorem State.dropInput_cfg : (s.dropInput).cfg = s.cfg := rfl
@[simp] theorem State.dropInput_mode : (s.dropInput).mode = s.mode := rfl
@[simp] theorem State.dropInput_stage : (s.dropInput).stage = s.stage := rfl
@[simp] theorem State.dropInput_valid : (s.dropInput).valid = s.valid := rfl
@[simp] theorem State.dropInput_fsz : (s.dropInput).fsz = s.fsz := rfl
@[simp] theorem State.dropInput_desc : (s.dropInput).desc = s.desc := rfl
@[simp] theorem State.dropInput_buf : (s.dropInput).buf = s.buf := rfl
@[simp] theorem State.dropInput_inputs : (s.dropInput).inputs = s.inputs.tail := rfl
@[simp] theorem State.dropInput_resp : (s.dropInput).resp = s.resp := rfl
@[simp] theorem State.dropInput_epoch : (s.dropInput).epoch = s.epoch := rfl
@[simp] theorem State.dropInput_draws : (s.dropInput).draws = s.draws := rfl
@[simp] theorem State.dropInput_cap : (s.dropInput).cap = s.cap := rfl
@[simp] theorem State.dropInput_headroom : (s.dropInput).headroom = s.headroom := rfl
@[simp] theorem State.dropInput_rsvd : (s.dropInput).rsvd = s.rsvd := rfl
@[simp] theorem State.dropInput_fcap : (s.dropInput).fcap = s.fcap := rfl

/-! ### `Desc.tail`: the registers no stage moves -/

@[simp] theorem Desc.tail_pid (d : Desc) (z : Half) (k : Stage) : (d.tail z k).pid = d.pid := by cases k <;> rfl
@[simp] theorem Desc.tail_fctl (d : Desc) (z : Half) (k : Stage) : (d.tail z k).fctl = d.fctl := by cases k <;> rfl
@[simp] theorem Desc.tail_netid (d : Desc) (z : Half) (k : Stage) : (d.tail z k).netid = d.netid := by cases k <;> rfl
@[simp] theorem Desc.tail_dst (d : Desc) (z : Half) (k : Stage) : (d.tail z k).dst = d.dst := by cases k <;> rfl
@[simp] theorem Desc.tail_src (d : Desc) (z : Half) (k : Stage) : (d.tail z k).src = d.src := by cases k <;> rfl
@[simp] theorem Desc.tail_hops (d : Desc) (z : Half) (k : Stage) : (d.tail z k).hops = d.hops := by cases k <;> rfl
@[simp] theorem Desc.tail_txaddr (d : Desc) (z : Half) (k : Stage) : (d.tail z k).txaddr = d.txaddr := by cases k <;> rfl
@[simp] theorem Desc.tail_ieSz (d : Desc) (z : Half) (k : Stage) : (d.tail z k).ieSz = d.ieSz := by cases k <;> rfl
@[simp] theorem Desc.tail_ieh (d : Desc) (z : Half) (k : Stage) : (d.tail z k).ieh = d.ieh := by cases k <;> rfl
@[simp] theorem Desc.tail_payldSz (d : Desc) (z : Half) (k : Stage) : (d.tail z k).payldSz = d.payldSz := by cases k <;> rfl
@[simp] theorem Desc.tail_micSz (d : Desc) (z : Half) (k : Stage) : (d.tail z k).micSz = d.micSz := by cases k <;> rfl

end Sys2Proof.Machine
end

