-- ==== Sys2Proof/Laws/Memory.lean ====
section
/-! SUPPORT. The buffer: a read after a write, what a write leaves alone, and that every write keeps the canonical
form and stays inside the addresses it names. -/

namespace Sys2Proof.Machine

@[simp] theorem Memory.read?_nil (a : Nat) : Memory.read? [] a = none := rfl

theorem Memory.read?_cons (x : Nat) (b : Byte) (m : Memory) (a : Nat) :
    Memory.read? ((x, b) :: m) a = if a = x then some b else Memory.read? m a := rfl

/-- A byte read after one byte is stored. -/
theorem Memory.read?_write (m : Memory) (a : Nat) (b : Byte) (x : Nat) :
    Memory.read? (Memory.write m a b) x = if x = a then some b else Memory.read? m x := by
  induction m with
  | nil => rfl
  | cons c m ih =>
    obtain ⟨y, c⟩ := c
    unfold Memory.write
    split
    · rfl
    · split
      · rename_i h
        subst h
        simp only [Memory.read?_cons]
        split <;> rfl
      · rename_i h
        simp only [Memory.read?_cons, ih]
        by_cases hx : x = y
        · have : x ≠ a := fun h' => h (h'.symm.trans hx)
          simp [hx, Ne.symm h]
        · simp [hx]

/-- A byte read after a byte string is stored. -/
theorem Memory.read?_writeList (bs : List Byte) (m : Memory) (a x : Nat) :
    Memory.read? (Memory.writeList m a bs) x =
      if a ≤ x ∧ x < a + bs.length then bs[x - a]? else Memory.read? m x := by
  induction bs generalizing m a with
  | nil => simp [Memory.writeList, Nat.not_lt.mpr]
  | cons b bs ih =>
    rw [Memory.writeList, ih, Memory.read?_write]
    by_cases h1 : a + 1 ≤ x ∧ x < a + 1 + bs.length
    · have h2 : a ≤ x ∧ x < a + (b :: bs).length := by simp; omega
      rw [if_pos h1, if_pos h2, show x - a = (x - (a + 1)) + 1 by omega, List.getElem?_cons_succ]
    · by_cases h3 : x = a
      · subst h3
        rw [if_neg h1, if_pos rfl, if_pos (by simp)]
        simp
      · rw [if_neg h1, if_neg h3, if_neg (by simp; omega)]

/-- Which addresses are listed after one byte is stored. -/
theorem Memory.mem_write {m : Memory} {a : Nat} {b : Byte} {c : Host.Cell} (h : c ∈ Memory.write m a b) :
    c = (a, b) ∨ c ∈ m := by
  induction m with
  | nil => simpa [Memory.write] using h
  | cons d m ih =>
    obtain ⟨y, d⟩ := d
    unfold Memory.write at h
    split at h
    · simpa using h
    · split at h
      · rename_i h'
        simp only [List.mem_cons] at h ⊢
        rcases h with h | h
        · exact .inl h
        · exact .inr (.inr h)
      · simp only [List.mem_cons] at h ⊢
        rcases h with h | h
        · exact .inr (.inl h)
        · rcases ih h with h | h
          · exact .inl h
          · exact .inr (.inr h)

/-- One byte stored keeps the canonical form. -/
theorem Memory.write_wf {m : Memory} (a : Nat) (b : Byte) (h : Memory.wf m) : Memory.wf (Memory.write m a b) := by
  induction m with
  | nil => simp [Memory.write, Memory.wf]
  | cons d m ih =>
    obtain ⟨y, d⟩ := d
    have hm := List.pairwise_cons.mp h
    unfold Memory.write
    split
    · rename_i hlt
      refine List.pairwise_cons.mpr ⟨?_, h⟩
      intro c hc
      rcases List.mem_cons.mp hc with rfl | hc
      · exact hlt
      · exact Nat.lt_trans hlt (hm.1 c hc)
    · split
      · rename_i heq
        exact List.pairwise_cons.mpr ⟨fun c hc => heq ▸ hm.1 c hc, hm.2⟩
      · rename_i h1 h2
        refine List.pairwise_cons.mpr ⟨?_, ih hm.2⟩
        intro c hc
        rcases Memory.mem_write hc with rfl | hc
        · show y < a; omega
        · exact hm.1 c hc

/-- A byte string stored keeps the canonical form. -/
theorem Memory.writeList_wf (bs : List Byte) {m : Memory} (a : Nat) (h : Memory.wf m) :
    Memory.wf (Memory.writeList m a bs) := by
  induction bs generalizing m a with
  | nil => exact h
  | cons b bs ih => exact ih _ (Memory.write_wf a b h)

/-- A byte string stored below a bound leaves every listed address below it. -/
theorem Memory.writeList_below {n : Nat} (bs : List Byte) {m : Memory} {a : Nat} (h : ∀ c ∈ m, c.1 < n)
    (ha : a + bs.length ≤ n) : ∀ c ∈ Memory.writeList m a bs, c.1 < n := by
  induction bs generalizing m a with
  | nil => exact h
  | cons b bs ih =>
    have hl : a + 1 + bs.length ≤ n := by simpa [Nat.add_assoc, Nat.add_comm 1] using ha
    refine ih (fun c hc => ?_) hl
    rcases Memory.mem_write hc with rfl | hc
    · show a < n; omega
    · exact h c hc

/-- The reset memory has the canonical form. -/
theorem reset_buf_wf : Memory.wf State.reset.buf := List.Pairwise.nil

/-! ### Bytes of the state -/

/-- A byte of the buffer after a byte string is stored. -/
theorem State.store_bufByte (s : State) (a : Nat) (bs : List Byte) (x : Nat) :
    (s.store a bs).bufByte x = if a ≤ x ∧ x < a + bs.length then bs.getD (x - a) 0 else s.bufByte x := by
  unfold State.bufByte
  rw [State.store_buf, State.store_epoch, Memory.read?_writeList]
  by_cases h : a ≤ x ∧ x < a + bs.length
  · have hlt : x - a < bs.length := by omega
    simp [h, List.getElem?_eq_getElem hlt]
  · simp [h]

/-- A state's byte depends on its buffer and its epoch only. -/
theorem State.bufByte_congr {s t : State} (hb : t.buf = s.buf) (he : t.epoch = s.epoch) (x : Nat) :
    t.bufByte x = s.bufByte x := by
  unfold State.bufByte; rw [hb, he]

/-- The bytes of a value, one by one (R10). -/
theorem leBytes_length (n : Nat) (v : Long) : (leBytes n v).length = n := by simp [leBytes]

theorem leBytes_getD (n : Nat) (v : Long) (i : Nat) (h : i < n) : (leBytes n v).getD i 0 = v.extractLsb' (8 * i) 8 := by
  simp [leBytes, h]

end Sys2Proof.Machine
end

