-- ==== Sys2Proof/Laws/Ops.lean ====
section
/-! SUPPORT. For each shared operation, what it can do: the outcome primitives, the builder's checks, and the byte at
an address after each update. -/

namespace Sys2Proof.Machine

/-! ### Outcomes -/

/-- `done` answers one next state. -/
theorem complete_next {s t : State} : complete s = .next t ↔ t = s.respond okResponse := by
  unfold complete; constructor
  · intro h; cases h; rfl
  · rintro rfl; rfl

/-- A failure answers one next state. -/
theorem raiseFail_next {c : Cause} {s t : State} : raiseFail c s = .next t ↔ t = s.respond (failResponse c) := by
  unfold raiseFail; constructor
  · intro h; cases h; rfl
  · rintro rfl; rfl

/-- A format failure answers one next state. -/
theorem formatFail_next {c : Cause} {s t : State} : formatFail c s = .next t ↔
    t = (((s.setValid false).setDesc (arbitraryDesc s.draws)).advanceDraws 18).respond (failResponse c) := by
  unfold formatFail; constructor
  · intro h; cases h; rfl
  · rintro rfl; rfl

/-- A setter fails with no effect or completes. -/
theorem runSetter_next {c : Option Cause} {s s' t : State} (h : runSetter c s s' = .next t) :
    (∃ k, c = some k ∧ t = s.respond (failResponse k)) ∨ (c = none ∧ t = s'.respond okResponse) := by
  cases c with
  | some k => exact .inl ⟨k, rfl, raiseFail_next.mp h⟩
  | none => exact .inr ⟨rfl, complete_next.mp h⟩

/-! ### The builder's checks -/

theorem builderCheck_mode {legal : Bool} {z : Nat} {s : State} (h : s.mode ≠ .tx) :
    builderCheck legal z s = some .mode := by simp [builderCheck, h]

theorem builderCheck_order {legal : Bool} {z : Nat} {s : State} (h : s.mode = .tx) (hl : legal = false) :
    builderCheck legal z s = some .order := by simp [builderCheck, h, hl]

theorem builderCheck_capacity {legal : Bool} {z : Nat} {s : State} (h : s.mode = .tx) (hl : legal = true)
    (hc : s.fcap < z + s.rsvd) : builderCheck legal z s = some .capacity := by simp [builderCheck, h, hl, hc]

/-- The checks pass exactly when the mode, the stage law and the capacity allow the operation. -/
theorem builderCheck_none {legal : Bool} {z : Nat} {s : State} :
    builderCheck legal z s = none ↔ s.mode = .tx ∧ legal = true ∧ z + s.rsvd ≤ s.fcap := by
  unfold builderCheck
  by_cases h1 : s.mode = .tx <;> cases legal <;> by_cases h3 : s.fcap < z + s.rsvd <;>
    simp_all

theorem stageIn_iff {lo hi : Nat} {k : Stage} : stageIn lo hi k = true ↔ lo ≤ stageCode k ∧ stageCode k ≤ hi := by
  simp [stageIn]

/-- `FCAP` fits a 16-bit register. -/
theorem State.fcap_lt (s : State) : s.fcap < 2 ^ 16 := by
  have := s.cfg.cap.isLt
  unfold State.fcap State.cap
  omega

/-- A frame size that passed the capacity check is stored unchanged. -/
theorem setFsz_toNat {s : State} {n : Nat} (h : n ≤ s.fcap) : (BitVec.ofNat 16 n).toNat = n := by
  rw [BitVec.toNat_ofNat]
  exact Nat.mod_eq_of_lt (Nat.lt_of_le_of_lt h s.fcap_lt)

/-! ### Bytes after each update -/

@[simp] theorem State.respond_bufByte (s : State) (r : Response) (x : Nat) : (s.respond r).bufByte x = s.bufByte x := rfl
@[simp] theorem State.setFsz_bufByte (s : State) (n x : Nat) : (s.setFsz n).bufByte x = s.bufByte x := rfl
@[simp] theorem State.setStage_bufByte (s : State) (k : Stage) (x : Nat) : (s.setStage k).bufByte x = s.bufByte x := rfl
@[simp] theorem State.setMode_bufByte (s : State) (m : Mode) (x : Nat) : (s.setMode m).bufByte x = s.bufByte x := rfl
@[simp] theorem State.setValid_bufByte (s : State) (v : Bool) (x : Nat) : (s.setValid v).bufByte x = s.bufByte x := rfl
@[simp] theorem State.setDesc_bufByte (s : State) (d : Desc) (x : Nat) : (s.setDesc d).bufByte x = s.bufByte x := rfl
@[simp] theorem State.advanceDraws_bufByte (s : State) (k x : Nat) : (s.advanceDraws k).bufByte x = s.bufByte x := rfl
@[simp] theorem State.clearRegs_bufByte (s : State) (x : Nat) : s.clearRegs.bufByte x = s.bufByte x := rfl
@[simp] theorem State.endField_bufByte (s : State) (k : Stage) (x : Nat) : (s.endField k).bufByte x = s.bufByte x := rfl
@[simp] theorem State.dropInput_bufByte (s : State) (x : Nat) : s.dropInput.bufByte x = s.bufByte x := rfl

/-- The bytes after a frame write (R10, R64). -/
theorem State.frWrite_bufByte (s : State) (o : Nat) (bs : List Byte) (x : Nat) :
    (s.frWrite o bs).bufByte x =
      if s.headroom + o ≤ x ∧ x < s.headroom + o + bs.length then bs.getD (x - (s.headroom + o)) 0
      else s.bufByte x := s.store_bufByte _ _ _

/-- The bytes after `OrFctl` (R140): frame offset 1 only. -/
theorem State.orFctl_bufByte (s : State) (m : Byte) (x : Nat) :
    (s.orFctl m).bufByte x = if x = s.headroom + 1 then s.desc.fctl ||| m else s.bufByte x := by
  unfold State.orFctl
  rw [State.frWrite_bufByte]
  by_cases h : x = s.headroom + 1
  · subst h; simp
  · rw [if_neg (by simp only [State.setDesc_headroom, List.length_singleton]; omega), if_neg h]; rfl

/-- The bytes after a field is appended (R140). -/
theorem State.appendField_bufByte (s : State) (d : Desc) (bs : List Byte) (x : Nat) :
    (s.appendField d bs).bufByte x =
      if s.headroom + s.fsz.toNat ≤ x ∧ x < s.headroom + s.fsz.toNat + bs.length then
        bs.getD (x - (s.headroom + s.fsz.toNat)) 0
      else s.bufByte x := by
  unfold State.appendField
  simp only [State.setFsz_bufByte, State.setDesc_bufByte]
  exact s.frWrite_bufByte _ _ _

/-- Frame bytes depend on the buffer, the epoch and the headroom only. -/
theorem State.frByte_congr {s t : State} (hb : t.buf = s.buf) (he : t.epoch = s.epoch) (hc : t.cfg = s.cfg) (o : Nat) :
    t.frByte o = s.frByte o := by
  unfold State.frByte State.headroom
  rw [hc]; exact State.bufByte_congr hb he _

@[simp] theorem State.frBytes_length (s : State) (o n : Nat) : (s.frBytes o n).length = n := by simp [State.frBytes]

theorem State.frBytes_getD (s : State) (o n i : Nat) (h : i < n) : (s.frBytes o n).getD i 0 = s.frByte (o + i) := by
  simp [State.frBytes, h]

theorem State.frBytes_zero (s : State) (o : Nat) : s.frBytes o 0 = [] := rfl

/-- A byte string and the one after it, read together. -/
theorem State.frBytes_add (s : State) (o m n : Nat) : s.frBytes o (m + n) = s.frBytes o m ++ s.frBytes (o + m) n := by
  simp only [State.frBytes, List.range_add, List.map_append, List.map_map]
  congr 1
  exact List.map_congr_left fun i _ => by simp [Nat.add_assoc]

end Sys2Proof.Machine
end

