-- ==== Sys2Proof/Laws/Parser.lean ====
section
/-! SUPPORT. What each step of `PARSE` has checked when it succeeds (43_parser.md R181 to R185). -/

namespace Sys2Proof.Machine

/-- Step 1 succeeded. -/
theorem parsePid_ok {s : State} {len : Nat} {p : Byte} (h : parsePid s len = .ok p) :
    1 ≤ len ∧ s.frByte 0 = s.cfg.pidCsma ∧ p = s.frByte 0 := by
  unfold parsePid at h
  split at h
  · cases h
  · split at h
    · cases h
    · rename_i h1 h2
      cases h
      exact ⟨by omega, by simpa using h2, rfl⟩

/-- Step 2 succeeded. -/
theorem parseFctl_ok {s : State} {len : Nat} {f : FctlInfo} (h : parseFctl s len = .ok f) :
    2 ≤ len ∧ f.fctl = s.frByte 1 ∧ asz (fctlDam f.fctl) = some f.dstSz ∧ asz (fctlSam f.fctl) = some f.srcSz
      ∧ msz (fctlMam f.fctl) = some f.mhopSz := by
  unfold parseFctl at h
  split at h
  · cases h
  · split at h
    · cases h
      exact ⟨by omega, rfl, ‹_›, ‹_›, ‹_›⟩
    · cases h

/-- A header field of step 3 was absent, or inside the frame. -/
theorem walkField_ok {s : State} {len c n : Nat} {r : Long × Nat} (h : walkField s len c n = .ok r) :
    r = (s.frRead c n, c + n) ∧ (n ≠ 0 → c + n ≤ len) := by
  unfold walkField at h
  split at h
  · rename_i h0
    subst h0
    cases h
    exact ⟨rfl, fun h => absurd rfl h⟩
  · split at h
    · cases h
    · cases h
      exact ⟨rfl, fun _ => by omega⟩

/-- Step 4 succeeded without an IE region. -/
theorem parseIe_absent (s : State) (len c : Nat) : parseIe s len c false = .ok { ieh := 0, ieSz := 0, micSz := 0 } := rfl

/-- Step 4 succeeded with an IE region. -/
theorem parseIe_ok {s : State} {len c : Nat} {e : IeInfo} (h : parseIe s len c true = .ok e) :
    c + 1 ≤ len ∧ e.ieh = s.frByte c ∧ iesz (iehIsc e.ieh) = some e.ieSz ∧ micsz (iehMsc e.ieh) = some e.micSz
      ∧ c + e.ieSz ≤ len := by
  unfold parseIe at h
  simp only [Bool.true_eq_false, if_false] at h
  split at h
  · cases h
  · split at h
    · cases h
    · split at h
      · cases h
      · split at h
        · cases h
        · rename_i hz _ _ hm hle
          cases h
          exact ⟨by omega, rfl, hz, hm, by simpa using hle⟩

/-- The steps of a successful parse, in order, and the descriptors it commits. -/
theorem parseFrame_ok {s : State} {d : Desc} (h : parseFrame s = .ok d) :
    ∃ (f : FctlInfo) (e : IeInfo) (netid dst src : Long) (c1 c2 c3 : Nat),
      parsePid s s.fsz.toNat = .ok d.pid ∧ parseFctl s s.fsz.toNat = .ok f
      ∧ walkField s s.fsz.toNat 2 (nsz (fctlN f.fctl)) = .ok (netid, c1)
      ∧ walkField s s.fsz.toNat c1 f.dstSz = .ok (dst, c2)
      ∧ walkField s s.fsz.toNat c2 f.srcSz = .ok (src, c3)
      ∧ parseIe s s.fsz.toNat c3 (fctlI f.fctl) = .ok e
      ∧ c3 + e.ieSz + f.mhopSz + e.micSz ≤ s.fsz.toNat
      ∧ ∃ o, o + f.mhopSz + e.micSz = s.fsz.toNat
        ∧ d = { pid := d.pid, fctl := f.fctl, netid := netid.setWidth 16, dst := dst, src := src,
                hops := (readMhop s o f.mhopSz).hops, txaddr := (readMhop s o f.mhopSz).txaddr, netidOff := 2,
                dstOff := BitVec.ofNat 16 c1, srcOff := BitVec.ofNat 16 c2, ieOff := BitVec.ofNat 16 c3,
                ieSz := BitVec.ofNat 16 e.ieSz, ieh := e.ieh, payldOff := BitVec.ofNat 16 (c3 + e.ieSz),
                payldSz := BitVec.ofNat 16 (o - (c3 + e.ieSz)), mhopOff := BitVec.ofNat 16 o,
                micOff := BitVec.ofNat 16 (o + f.mhopSz), micSz := BitVec.ofNat 16 e.micSz } := by
  simp only [parseFrame, bind, Except.bind] at h
  split at h
  · cases h
  rename_i p hp
  split at h
  · cases h
  rename_i f hf
  split at h
  · cases h
  rename_i r1 h1
  split at h
  · cases h
  rename_i r2 h2
  split at h
  · cases h
  rename_i r3 h3
  split at h
  · cases h
  rename_i e he
  split at h
  · cases h
  rename_i hle
  cases h
  refine ⟨f, e, r1.1, r2.1, r3.1, r1.2, r2.2, r3.2, hp, hf, h1, h2, h3, he, by omega,
    r3.2 + e.ieSz + (s.fsz.toNat - (r3.2 + e.ieSz) - f.mhopSz - e.micSz), by omega, ?_⟩
  simp only [Nat.add_sub_cancel_left]

/-- Everything `PARSE` can answer. -/
theorem execParse_next {s t : State} (h : execParse s = .next t) :
    (s.mode ≠ .rx ∧ t = s.respond (failResponse .mode))
    ∨ (s.mode = .rx ∧ ∃ c, parseFrame s = .error c
        ∧ t = (((s.setValid false).setDesc (arbitraryDesc s.draws)).advanceDraws 18).respond (failResponse c))
    ∨ (s.mode = .rx ∧ ∃ d, parseFrame s = .ok d ∧ t = ((s.setDesc d).setValid true).respond okResponse) := by
  unfold execParse at h
  split at h
  · exact .inl ⟨‹_›, raiseFail_next.mp h⟩
  · rename_i hm
    have hm : s.mode = .rx := by simpa using hm
    split at h
    · cases h
    · split at h
      · exact .inr (.inl ⟨hm, _, ‹_›, formatFail_next.mp h⟩)
      · exact .inr (.inr ⟨hm, _, ‹_›, complete_next.mp h⟩)

end Sys2Proof.Machine
end

