-- ==== Sys2Proof/Laws/PerInstr.lean ====
section
/-! SUPPORT. The family `TableRow`: the port word an operation is encoded as has the width and the fixed bits of its row
of spec/opcode_table.json, whatever its operands. One lemma per constructor. -/

namespace Sys2Proof

/-- The width of a request's port word (30_encoding.md R106, R109, R110). -/
def Request.width : Request → Nat
  | .command _ _ => 92
  | .buffer _ => 25
  | .register _ => 6

/-- A request's port word as a number. -/
def Request.number : Request → Nat
  | .command cw _ => cw.toNat
  | .buffer bw => bw.toNat
  | .register rw => rw.toNat

/-- An operation's row of spec/opcode_table.json: the word's width, the lowest fixed bit, and the value of the fixed bits
from there up. -/
def tableRow : Instr → Nat × Nat × Nat
  | .discard => (92, 88, 0x0)
  | .newTx => (92, 88, 0x1)
  | .newRx _ => (92, 88, 0x2)
  | .parse => (92, 88, 0x3)
  | .setProtocol _ => (92, 88, 0x4)
  | .setNetId _ => (92, 88, 0x5)
  | .setDstShort _ => (92, 88, 0x6)
  | .setDstLong _ => (92, 88, 0x7)
  | .setSrcShort _ => (92, 88, 0x8)
  | .setSrcLong _ => (92, 88, 0x9)
  | .setPayld _ => (92, 88, 0xA)
  | .setPayldSz _ => (92, 88, 0xB)
  | .setMhopShort _ _ => (92, 88, 0xC)
  | .setMhopLong _ _ => (92, 88, 0xD)
  | .setMic => (92, 88, 0xE)
  | .unassignedF => (92, 88, 0xF)
  | .bufRd _ => (25, 24, 0x0)
  | .bufWr _ _ => (25, 24, 0x1)
  | .regRd _ => (6, 6, 0x0)

/-- The encoding has its table row's width and fixed bits. -/
def Laws.TableRow.Statement (i : Instr) : Prop :=
  (encode i).width = (tableRow i).1 ∧ (encode i).number / 2 ^ (tableRow i).2.1 = (tableRow i).2.2

/-- A buffer port word divided by 2^24 is its write bit. -/
theorem mkBW_toNat_div (w : BitVec 1) (a : Half) (d : Byte) : (mkBW w a d).toNat / 2 ^ 24 = w.toNat := by
  have := congrArg BitVec.toNat (bwWe_mkBW w a d)
  unfold bwWe at this
  rw [BitVec.extractLsb'_toNat, Nat.shiftRight_eq_div_pow, Nat.mod_eq_of_lt] at this
  · exact this
  · have := (mkBW w a d).isLt
    omega

theorem Laws.TableRow.discard : Laws.TableRow.Statement .discard := ⟨rfl, mkCW_toNat_div _ _ _ _⟩

theorem Laws.TableRow.newTx : Laws.TableRow.Statement .newTx := ⟨rfl, mkCW_toNat_div _ _ _ _⟩

theorem Laws.TableRow.newRx (a : List Byte) : Laws.TableRow.Statement (.newRx a) :=
  ⟨rfl, mkCW_toNat_div _ _ _ _⟩

theorem Laws.TableRow.parse : Laws.TableRow.Statement .parse := ⟨rfl, mkCW_toNat_div _ _ _ _⟩

theorem Laws.TableRow.setProtocol (a : Byte) : Laws.TableRow.Statement (.setProtocol a) :=
  ⟨rfl, mkCW_toNat_div _ _ _ _⟩

theorem Laws.TableRow.setNetId (a : Half) : Laws.TableRow.Statement (.setNetId a) :=
  ⟨rfl, mkCW_toNat_div _ _ _ _⟩

theorem Laws.TableRow.setDstShort (a : Half) : Laws.TableRow.Statement (.setDstShort a) :=
  ⟨rfl, mkCW_toNat_div _ _ _ _⟩

theorem Laws.TableRow.setDstLong (a : Long) : Laws.TableRow.Statement (.setDstLong a) :=
  ⟨rfl, mkCW_toNat_div _ _ _ _⟩

theorem Laws.TableRow.setSrcShort (a : Half) : Laws.TableRow.Statement (.setSrcShort a) :=
  ⟨rfl, mkCW_toNat_div _ _ _ _⟩

theorem Laws.TableRow.setSrcLong (a : Long) : Laws.TableRow.Statement (.setSrcLong a) :=
  ⟨rfl, mkCW_toNat_div _ _ _ _⟩

theorem Laws.TableRow.setPayld (a : List Byte) : Laws.TableRow.Statement (.setPayld a) :=
  ⟨rfl, mkCW_toNat_div _ _ _ _⟩

theorem Laws.TableRow.setPayldSz (a : Half) : Laws.TableRow.Statement (.setPayldSz a) :=
  ⟨rfl, mkCW_toNat_div _ _ _ _⟩

theorem Laws.TableRow.setMhopShort (a : Byte) (b : Half) : Laws.TableRow.Statement (.setMhopShort a b) :=
  ⟨rfl, mkCW_toNat_div _ _ _ _⟩

theorem Laws.TableRow.setMhopLong (a : Byte) (b : Long) : Laws.TableRow.Statement (.setMhopLong a b) :=
  ⟨rfl, mkCW_toNat_div _ _ _ _⟩

theorem Laws.TableRow.setMic : Laws.TableRow.Statement .setMic := ⟨rfl, mkCW_toNat_div _ _ _ _⟩

theorem Laws.TableRow.unassignedF : Laws.TableRow.Statement .unassignedF := ⟨rfl, mkCW_toNat_div _ _ _ _⟩

theorem Laws.TableRow.bufRd (a : Half) : Laws.TableRow.Statement (.bufRd a) :=
  ⟨rfl, mkBW_toNat_div _ _ _⟩

theorem Laws.TableRow.bufWr (a : Half) (b : Byte) : Laws.TableRow.Statement (.bufWr a b) :=
  ⟨rfl, mkBW_toNat_div _ _ _⟩

theorem Laws.TableRow.regRd (a : BitVec 6) : Laws.TableRow.Statement (.regRd a) :=
  ⟨rfl, Nat.div_eq_of_lt a.isLt⟩

end Sys2Proof
end

