-- ==== Sys2Proof/Laws/Setters.lean ====
section
/-! SUPPORT. Once for all setters: an operation that is a checked write follows the shape of a setter's rule. -/

namespace Sys2Proof.Machine

/-- A setter given by its checks and its successful state follows `SetterRule` (41_builder_header.md R140). -/
theorem setterRule_of {i : Instr} {s s' : State} {lg : Bool} {legal : Prop} {z : Nat} {after : State → Prop}
    (he : exec i s = runSetter (builderCheck lg z s) s s') (hl : lg = true ↔ legal)
    (hp : z + s.rsvd ≤ s.fcap → after (s'.respond okResponse)) : SetterRule i s legal z after := by
  refine ⟨fun h => ?_, fun h h2 => ?_, fun h h2 h3 => ?_, fun h h2 h3 => ⟨_, ?_, hp h3⟩⟩
  · rw [he, builderCheck_mode h]; rfl
  · rw [he, builderCheck_order h (by simpa [← hl] using h2)]; rfl
  · rw [he, builderCheck_capacity h (hl.mpr h2) h3]; rfl
  · rw [he, builderCheck_none.mpr ⟨h, hl.mpr h2, h3⟩]; rfl

end Sys2Proof.Machine
end

