-- ==== Sys2Proof/Laws/Step.lean ====
section
/-! SUPPORT. Everything a step can do. -/

namespace Sys2Proof.Machine

/-- A step waits, takes a `RESET` event, or carries out the operation the next request decodes to. -/
theorem step_next {s t : State} (h : step s = .next t) :
    wellFormedConfig s.cfg = true
    ∧ ((s.inputs = [] ∧ t = s)
      ∨ (∃ rest, s.inputs = .reset :: rest ∧ t = s.dropInput.takeReset)
      ∨ ∃ r i rest, s.inputs = .request r :: rest ∧ decode r = .ok i ∧ exec i s.dropInput = .next t) := by
  unfold step at h
  split at h
  · refine ⟨‹_›, ?_⟩
    cases hin : s.inputs with
    | nil => rw [hin] at h; cases h; exact .inl ⟨rfl, rfl⟩
    | cons x rest =>
      rw [hin] at h
      cases x with
      | reset => cases h; exact .inr (.inl ⟨rest, rfl, rfl⟩)
      | request r =>
        refine .inr (.inr ?_)
        simp only [List.head?_cons] at h
        split at h
        · exact ⟨r, _, rest, rfl, ‹_›, h⟩
        · cases h
  · cases h

end Sys2Proof.Machine
end

