-- ==== Sys2Proof/Laws/Wire.lean ====
section
/-! SUPPORT. The size codes and the byte order of values: what a recognized code stands for, and that a value's bytes
read back as the value. -/

namespace Sys2Proof.Machine

/-- A recognized address mode code is not 3. -/
theorem asz_some {m : BitVec 2} {n : Nat} (h : asz m = some n) : m ≠ 3 ∧ n = aszD m := by
  refine ⟨?_, by simp [aszD, h]⟩
  rintro rfl
  simp [asz] at h

/-- Every address mode code but 3 is recognized. -/
theorem asz_of_ne {m : BitVec 2} (h : m ≠ 3) : asz m = some (aszD m) := by
  revert h; revert m; decide

/-- A recognized trailer mode code is not 3. -/
theorem msz_some {m : BitVec 2} {n : Nat} (h : msz m = some n) : m ≠ 3 ∧ n = mszD m := by
  refine ⟨?_, by simp [mszD, h]⟩
  rintro rfl
  simp [msz] at h

/-- Every trailer mode code but 3 is recognized. -/
theorem msz_of_ne {m : BitVec 2} (h : m ≠ 3) : msz m = some (mszD m) := by
  revert h; revert m; decide

/-- A trailer is its hop count byte and its relay address (30_encoding.md R96). -/
theorem mszD_eq {m : BitVec 2} (h3 : m ≠ 3) (h0 : m ≠ 0) : mszD m = 1 + aszD m := by
  revert h3 h0; revert m; decide

/-- A recognized IE size code is not 3. -/
theorem iesz_some {c : BitVec 2} {n : Nat} (h : iesz c = some n) : c ≠ 3 ∧ n = ieszD c := by
  refine ⟨?_, by simp [ieszD, h]⟩
  rintro rfl
  simp [iesz] at h

/-- Every IE size code but 3 is recognized. -/
theorem iesz_of_ne {c : BitVec 2} (h : c ≠ 3) : iesz c = some (ieszD c) := by
  revert h; revert c; decide

/-- A recognized MIC size code is not 3. -/
theorem micsz_some {c : BitVec 2} {n : Nat} (h : micsz c = some n) : c ≠ 3 ∧ n = micszD c := by
  refine ⟨?_, by simp [micszD, h]⟩
  rintro rfl
  simp [micsz] at h

/-- Every MIC size code but 3 is recognized. -/
theorem micsz_of_ne {c : BitVec 2} (h : c ≠ 3) : micsz c = some (micszD c) := by
  revert h; revert c; decide

/-! ### Byte order -/

/-- One more byte of a value. -/
theorem leBytes_succ (n : Nat) (v : Long) : leBytes (n + 1) v = v.setWidth 8 :: leBytes n (v >>> 8) := by
  unfold leBytes
  rw [List.range_succ_eq_map, List.map_cons, List.map_map]
  refine List.cons_eq_cons.mpr ⟨?_, List.map_congr_left fun i _ => ?_⟩
  · ext i hi
    simp
  · ext j hj
    simp only [Function.comp, BitVec.getElem_extractLsb', BitVec.getLsbD_ushiftRight]
    congr 1
    omega

/-- The bytes of a value, read little-endian, are the value modulo their width (00_scope.md R10). -/
theorem leValue_leBytes (n : Nat) (v : Long) : leValue (leBytes n v) = v.toNat % 256 ^ n := by
  induction n generalizing v with
  | zero => simp [leBytes, leValue, Nat.mod_one]
  | succ n ih =>
    have h : 256 ^ (n + 1) = 256 * 256 ^ n := by rw [pow_succ, Nat.mul_comm]
    rw [leBytes_succ, leValue, ih, BitVec.toNat_ushiftRight, Nat.shiftRight_eq_div_pow, BitVec.toNat_setWidth, h,
      Nat.mod_mul]

/-- A byte string's value is below its width. -/
theorem leValue_lt (bs : List Byte) : leValue bs < 256 ^ bs.length := by
  induction bs with
  | nil => simp [leValue]
  | cons b bs ih =>
    have := b.isLt
    simp only [leValue, List.length_cons, Nat.pow_succ]
    omega

end Sys2Proof.Machine
end

