-- ==== Sys2Proof/Tests/Slice0.lean ====
section
/-! SUPPORT. Tests of the model, each expected value from the spec (its section or row is in the comment), and for every
statement with hypotheses a witness: a concrete state and operands that meet them together. -/

namespace Sys2Proof.Tests

open Sys2Proof Sys2Proof.Machine

/-! ### Helpers -/

/-- The state after operations from reset; the reset state itself if one of them stops. -/
def after (c : Config) (is : List Instr) : State :=
  match execAll is (State.resetWith c) with
  | .next t => t
  | .fault _ => State.resetWith c
  | .refused _ => State.resetWith c

/-- The bit `ok` of the last response. -/
def okBit (s : State) : Option Bool := s.resp.map Response.ok

/-- The label of the last failure. -/
def label (s : State) : Option Cause := s.resp.bind Response.cause

/-- The read data of the last response. -/
def rdata (s : State) : Option RData := s.resp.map Response.rdata

/-- The state after a step; the state itself if the step stops. -/
def stepped (s : State) : State :=
  match step s with
  | .next t => t
  | .fault _ => s
  | .refused _ => s

/-- The refusal a step answers. -/
def refusal (s : State) : Option Refusal :=
  match step s with
  | .next _ => none
  | .fault _ => none
  | .refused r => some r

/-- The request a decoder refuses, by name. -/
def decodeError (r : Request) : Option DecodeError :=
  match decode r with
  | .ok _ => none
  | .error e => some e

/-- A received frame, parsed. -/
def parsed (data : List Byte) : State := after .cfgA [.newRx data, .parse]

/-- Scenario A (95_test_vectors.md 1.1). -/
def scenarioA : List Instr := [.newTx, .setProtocol 0xE4, .setSrcShort 0x1234, .setPayld [0x48, 0x49]]

/-- Row 32 of 95_test_vectors.md 2.5: every optional field present. -/
def row32 : List Byte :=
  [0xE4, 0xE6, 0xEF, 0xBE, 0x88, 0x77, 0x66, 0x55, 0x44, 0x33, 0x22, 0x11, 0xB2, 0xA1, 0x51, 0x0A, 0x0B, 0x48, 0x49,
   0x02, 0x08, 0x07, 0x06, 0x05, 0x04, 0x03, 0x02, 0x01, 0xF1, 0xF2, 0xF3, 0xF4]

/-- The capacity boundary of 95_test_vectors.md 1.3, on CFG-B. -/
def boundaryRun : List Instr := [.newTx, .setProtocol 0xE4, .setDstShort 0xFFFF, .setSrcLong 0x0102030405060708]

/-- A configuration with room for exactly `n` frame bytes. -/
def room (n : Nat) : Config := { cap := BitVec.ofNat 16 n, headroom := 0, micRsvd := 0, pidCsma := 0xE4 }

/-! ### Well-formedness: a data string too long for `len` is refused -/

theorem test_wellFormed_newRx : (Instr.newRx (List.replicate 65536 0)).wellFormed = false := by
  simp only [Instr.wellFormed, List.length_replicate]; decide

theorem test_wellFormed_setPayld : (Instr.setPayld (List.replicate 65536 0)).wellFormed = false := by
  simp only [Instr.wellFormed, List.length_replicate]; decide

theorem test_wellFormed_largest : (Instr.setPayld (List.replicate 65535 0)).wellFormed = true := by
  simp only [Instr.wellFormed, List.length_replicate]; decide

/-- 00_scope.md R6: headroom beyond the capacity, capacity 0, a reserve that is not 0, 4 or 8. -/
theorem test_wellFormedConfig :
    wellFormedConfig .cfgA = true ∧ wellFormedConfig .cfgB = true
    ∧ wellFormedConfig { Config.cfgB with headroom := 33 } = false
    ∧ wellFormedConfig { Config.cfgB with headroom := 32 } = true
    ∧ wellFormedConfig { Config.cfgA with cap := 0 } = false
    ∧ wellFormedConfig { Config.cfgA with micRsvd := 5 } = false := by decide

theorem test_step_refuses_illFormedConfig :
    refusal (State.resetWith { Config.cfgB with headroom := 33 }) = some .illFormedConfig := by decide

/-! ### Decoding: words written out from 30_encoding.md R106 to R110 (`op`, `hops`, `len`, `arg`) -/

/-- 95_test_vectors.md 1.1, 2.2. -/
theorem test_decode_lifecycle :
    decodeTableWord 96 0x00000000000000000000000 = some .discard
    ∧ decodeTableWord 96 0x10000000000000000000000 = some .newTx
    ∧ decode (.command 0x20000060000000000000000#92 [0xE4, 0x04, 0x34, 0x12, 0x48, 0x49])
        = .ok (.newRx [0xE4, 0x04, 0x34, 0x12, 0x48, 0x49])
    ∧ decodeTableWord 96 0x20000030000000000000000 = some (.newRx [0, 0, 0])
    ∧ decodeTableWord 96 0x30000000000000000000000 = some .parse := ⟨rfl, rfl, rfl, rfl, rfl⟩

/-- 95_test_vectors.md 2.2, the ones in the ignored fields included. -/
theorem test_decode_header :
    decodeTableWord 96 0x4FFFFFF00000000000001E4 = some (.setProtocol 0xE4)
    ∧ decodeTableWord 96 0x5000000000000000000BEEF = some (.setNetId 0xBEEF)
    ∧ decodeTableWord 96 0x6000000FFFFFFFFFFFF1234 = some (.setDstShort 0x1234)
    ∧ decodeTableWord 96 0x70000001122334455667788 = some (.setDstLong 0x1122334455667788)
    ∧ decodeTableWord 96 0x8000000000000000000A1B2 = some (.setSrcShort 0xA1B2)
    ∧ decodeTableWord 96 0x90000000102030405060708 = some (.setSrcLong 0x0102030405060708) :=
  ⟨rfl, rfl, rfl, rfl, rfl, rfl⟩

/-- 95_test_vectors.md 1.2, 2.2; 30_encoding.md R113 for the last two. -/
theorem test_decode_payload :
    decode (.command 0xA0000020000000000000000#92 [0x48, 0x49]) = .ok (.setPayld [0x48, 0x49])
    ∧ decodeTableWord 96 0xA0000020000000000000000 = some (.setPayld [0, 0])
    ∧ decodeTableWord 96 0xB0000040000000000000000 = some (.setPayldSz 4)
    ∧ decodeTableWord 96 0xC070000000000000000C3D4 = some (.setMhopShort 7 0xC3D4)
    ∧ decodeTableWord 96 0xD03000000ABCDEF01234567 = some (.setMhopLong 3 0x00ABCDEF01234567)
    ∧ decodeTableWord 96 0xE0000000000000000000000 = some .setMic
    ∧ decodeTableWord 96 0xF0000000000000000000000 = some .unassignedF := ⟨rfl, rfl, rfl, rfl, rfl, rfl, rfl⟩

/-- 30_encoding.md R109: bit 24, bits 23:8, bits 7:0; R110. -/
theorem test_decode_ports :
    decodeTableWord 32 0x0001FFF = some (.bufRd 31)
    ∧ decodeTableWord 32 0x1001F5A = some (.bufWr 31 0x5A)
    ∧ decodeTableWord 8 0x16 = some (.regRd 22) ∧ decodeTableWord 8 0x3F = some (.regRd 63) := ⟨rfl, rfl, rfl, rfl⟩

/-- A data string of another length, and numbers with bits above the word. -/
theorem test_decode_refuses :
    decodeError (.command 0xA0000020000000000000000#92 [0x48]) = some (.dataLength 2 1)
    ∧ decodeTableWord 8 0x40 = none ∧ decodeTableWord 32 0x2000000 = none ∧ decodeTableWord 96 (2 ^ 92) = none := by
  decide

/-- The row of every instruction runs as the first instruction after reset, here `SET_PROTOCOL` (it fails: IDLE). -/
theorem test_withFetchWord :
    label (stepped (State.reset.withFetchWord 96 0x400000000000000000000E4)) = some .mode
    ∧ (stepped (State.reset.withFetchWord 96 0x10000000000000000000000)).mode = .tx := by decide

/-! ### One operation each -/

/-- 95_test_vectors.md 2.1 row 15: the bytes stay. -/
theorem test_discard :
    let s := after .cfgB [.newRx [0xE4, 0], .parse, .discard]
    (s.mode, s.valid, s.fsz, s.payldPtr, s.frBytes 0 2) = (.idle, false, 0, 4, [0xE4, 0]) := by decide

/-- 95_test_vectors.md 2.1 rows 8 and 9. -/
theorem test_newTx_restart :
    let s := after .cfgB [.newTx, .setProtocol 0xE4, .setSrcShort 0xBEEF, .newTx]
    (s.mode, s.stage, s.fsz, s.remain, s.frBytes 0 4) = (.tx, .empty, 0, 24, [0xE4, 0x04, 0xEF, 0xBE]) := by decide

/-- 95_test_vectors.md 2.1 row 10: `len = FCAP`. -/
theorem test_newRx_largest :
    let s := after .cfgB [.newRx (List.replicate 28 7)]
    (okBit s, s.mode, s.fsz, s.bufByte 4, s.bufByte 31) = (some true, .rx, 28, 7, 7) := by decide

/-- 95_test_vectors.md 2.1 row 11: one byte more. -/
theorem test_newRx_tooLong :
    let s := after .cfgB [.newTx, .newRx (List.replicate 29 7)]
    (label s, s.mode, s.fsz, s.buf) = (some .capacity, .tx, 0, []) := by decide

/-- 95_test_vectors.md 2.5 row 32. -/
theorem test_parse_every_field :
    let s := parsed row32
    (s.valid, s.desc.netid, s.desc.dst, s.desc.src, s.desc.ieh, s.desc.hops, s.desc.txaddr)
        = (true, 0xBEEF, 0x1122334455667788, 0xA1B2, 0x51, 2, 0x102030405060708)
    ∧ (s.desc.dstOff, s.desc.srcOff, s.desc.ieOff, s.desc.ieSz, s.desc.payldOff, s.desc.payldSz, s.desc.mhopOff)
        = (4, 12, 14, 3, 17, 2, 19)
    ∧ (s.desc.micOff, s.desc.micSz) = (28, 4) := by
  refine ⟨?_, ?_, ?_⟩ <;> decide

/-- 95_test_vectors.md 1.4, 1.5, 2.5 rows 22, 23, 30. -/
theorem test_parse_failures :
    label (parsed [0xE5, 0, 0, 0]) = some .pid ∧ label (parsed [0xE4, 0x04, 0x34]) = some .overrun
    ∧ label (parsed [0xE4, 0x40, 0xC0, 1, 2, 3, 4, 5, 6, 7]) = some .ieCode
    ∧ label (parsed [0xE4, 0x40, 0x30, 1, 2, 3, 4, 5, 6, 7]) = some .micCode
    ∧ label (parsed [0xE4, 0x41, 0x10, 5, 0x22, 0x11, 1, 2, 3]) = some .overrun
    ∧ label (parsed [0xE4, 0x0C]) = some .addrCode ∧ label (parsed []) = some .short := by decide

/-- 95_test_vectors.md 2.2. -/
theorem test_setProtocol :
    let s := after .cfgA [.newTx, .setProtocol 0x55]
    (okBit s, s.frameBytes, s.stage, s.fsz, s.desc.pid, s.desc.micOff) = (some true, [0x55, 0], .proto, 2, 0x55, 2) := by
  decide

/-- 95_test_vectors.md 2.2. -/
theorem test_setNetId :
    let s := after .cfgA [.newTx, .setProtocol 0xE4, .setNetId 0xBEEF]
    (s.frameBytes, s.stage, s.desc.netidOff, s.desc.dstOff, s.desc.fctl) = ([0xE4, 0x80, 0xEF, 0xBE], .netid, 2, 4, 0x80) := by
  decide

/-- 95_test_vectors.md 2.2. -/
theorem test_setDstShort :
    let s := after .cfgA [.newTx, .setProtocol 0xE4, .setDstShort 0xFFFE]
    (s.frameBytes, s.stage, s.desc.fctl, s.desc.dst, s.desc.srcOff) = ([0xE4, 0x10, 0xFE, 0xFF], .dst, 0x10, 0xFFFE, 4) := by
  decide

/-- 95_test_vectors.md 2.2. -/
theorem test_setDstLong :
    let s := after .cfgA [.newTx, .setProtocol 0xE4, .setNetId 0xBEEF, .setDstLong 0x1122334455667788]
    (s.frBytes 1 11, s.stage, s.desc.dstOff, s.desc.srcOff)
      = ([0xA0, 0xEF, 0xBE, 0x88, 0x77, 0x66, 0x55, 0x44, 0x33, 0x22, 0x11], .dst, 4, 12) := by decide

/-- 95_test_vectors.md 1.1. -/
theorem test_setSrcShort :
    let s := after .cfgA [.newTx, .setProtocol 0xE4, .setSrcShort 0x1234]
    (s.frameBytes, s.stage, s.desc.src, s.desc.srcOff, s.desc.ieOff) = ([0xE4, 0x04, 0x34, 0x12], .src, 0x1234, 2, 4) := by
  decide

/-- 95_test_vectors.md 1.3. -/
theorem test_setSrcLong :
    let s := after .cfgB boundaryRun
    (s.frameBytes, s.remain) = ([0xE4, 0x18, 0xFF, 0xFF, 8, 7, 6, 5, 4, 3, 2, 1], 12) := by decide

/-- 95_test_vectors.md 1.1. -/
theorem test_setPayld :
    let s := after .cfgA scenarioA
    (s.frameBytes, s.stage, s.desc.payldOff, s.desc.payldSz, s.desc.micOff, s.remain)
      = ([0xE4, 0x04, 0x34, 0x12, 0x48, 0x49], .payld, 4, 2, 6, 250) := by decide

/-- 95_test_vectors.md 1.3: `REMAIN` bytes are taken, one more is not. -/
theorem test_setPayld_boundary :
    (after .cfgB (boundaryRun ++ [.setPayld (List.replicate 12 0x30)])).remain = 0
    ∧ label (after .cfgB (boundaryRun ++ [.setPayld (List.replicate 13 0x30)])) = some .capacity := by decide

/-- 95_test_vectors.md 2.3 rows 2 and 3. -/
theorem test_setPayldSz :
    let s := after .cfgA [.newTx, .setProtocol 0xE4, .setPayld [], .setPayldSz 4]
    (okBit s, s.fsz, s.desc.payldOff, s.desc.payldSz, s.desc.mhopOff) = (some true, 6, 2, 4, 6)
    ∧ label (after .cfgA (scenarioA ++ [.setPayldSz 1])) = some .order := by decide

/-- 95_test_vectors.md 2.3 rows 4 and 5. -/
theorem test_setMhopShort :
    let s := after .cfgA [.newTx, .setProtocol 0xE4, .setMhopShort 7 0xC3D4]
    (s.frameBytes, s.stage, s.desc.hops, s.desc.txaddr, s.desc.micOff)
      = ([0xE4, 0x01, 7, 0xD4, 0xC3], .mhop, 7, 0xC3D4, 5) := by decide

/-- 95_test_vectors.md 1.2: the frame grows by 9 bytes. -/
theorem test_setMhopLong :
    let s := after .cfgA (scenarioA ++ [.setMhopLong 3 0x00ABCDEF01234567])
    (s.frameBytes, s.stage, s.desc.mhopOff)
      = ([0xE4, 0x06, 0x34, 0x12, 0x48, 0x49, 3, 0x67, 0x45, 0x23, 0x01, 0xEF, 0xCD, 0xAB, 0x00], .mhop, 6) := by decide

/-- 95_test_vectors.md 2.1 row 4; 30_encoding.md R113. -/
theorem test_setMic_unassigned :
    label (after .cfgB [.setMic]) = some .reserved ∧ label (after .cfgB [.newTx, .unassignedF]) = some .opcode := by
  decide

/-- 44_access.md R200. -/
theorem test_bufRd :
    rdata (after .cfgA (scenarioA ++ [.bufRd 5])) = some (.byte 0x49)
    ∧ label (after .cfgA [.bufRd 256]) = some .range := by decide

/-- 44_access.md R201. -/
theorem test_bufWr :
    (after .cfgB [.bufWr 31 0x5A]).bufByte 31 = 0x5A ∧ label (after .cfgB [.bufWr 32 0x5A]) = some .range := by decide

/-- 44_access.md R203; 95_test_vectors.md 1.3 for `REMAIN`. -/
theorem test_regRd :
    rdata (after .cfgB (boundaryRun ++ [.regRd 22])) = some (.word 12)
    ∧ rdata (after .cfgB (boundaryRun ++ [.regRd 27])) = some (.word 16)
    ∧ label (after .cfgB [.regRd 28]) = some .reg := by decide

/-! ### Witnesses: encoding and the step -/

theorem witness_EncodedInstructionDecodesToItself :
    (Instr.newRx (List.replicate 65535 1)).wellFormed = true ∧ (Instr.setPayld []).wellFormed = true
    ∧ (Instr.bufWr 0xFFFF 0xFF).wellFormed = true := by
  simp only [Instr.wellFormed, List.length_replicate]; decide

theorem witness_CommandWordIsReadByItsOpcode :
    (List.replicate 65535 (0 : Byte)).length = (0xFFFF : Half).toNat ∧ ([] : List Byte).length = (0 : Half).toNat := by
  simp only [List.length_replicate]; decide

theorem witness_DataStringOfAnotherLengthIsRefused :
    ([0x48] : List Byte).length ≠ (0 : Half).toNat ∧ ([] : List Byte).length ≠ (0xFFFF : Half).toNat := by decide

theorem witness_StepRunsTheDecodedRequest :
    let s := { State.reset with inputs := [.request (.register 27), .reset] }
    wellFormedConfig s.cfg = true ∧ s.inputs = .request (.register 27) :: [.reset]
    ∧ decode (.register 27) = .ok (.regRd 27) := ⟨rfl, rfl, rfl⟩

theorem witness_StepWithoutRequestWaits :
    wellFormedConfig State.reset.cfg = true ∧ State.reset.inputs = [] := by decide

theorem witness_ResetEventClearsTheMachine :
    let s := { after .cfgA scenarioA with inputs := [.reset, .request (.register 0)] }
    wellFormedConfig s.cfg = true ∧ s.inputs = .reset :: [.request (.register 0)] := by decide

theorem witness_InvariantHoldsAtReset :
    wellFormedConfig .cfgB = true ∧ wellFormedConfig { Config.cfgB with headroom := 32 } = true := by decide

/-! ### Witnesses: states that keep the invariant -/

theorem witness_Inv_idle : Inv State.reset :=
  ⟨by decide, by decide, by decide, by decide, by decide, by decide, by decide⟩

theorem witness_Inv_tx_empty : Inv (after .cfgB [.newTx]) :=
  ⟨by decide, by decide, by decide, by decide, by decide, by decide, by decide⟩

theorem witness_Inv_tx : Inv (after .cfgB boundaryRun) :=
  ⟨by decide, by decide, by decide, by decide, by decide, by decide, by decide⟩

theorem witness_Inv_tx_trailer : Inv (after .cfgA (scenarioA ++ [.setMhopLong 3 0x00ABCDEF01234567])) :=
  ⟨by decide, by decide, by decide, by decide, by decide, by decide, by decide⟩

theorem witness_Inv_rx : Inv (parsed row32) :=
  ⟨by decide, by decide, by decide, by decide, by decide, by decide, by decide⟩

theorem witness_EveryStepKeepsTheInvariant :
    let s := { after .cfgB boundaryRun with inputs := [.request (encode (.setPayld [1, 2, 3]))] }
    Inv s ∧ ∃ t, step s = .next t ∧ t.fsz = 15 :=
  ⟨⟨by decide, by decide, by decide, by decide, by decide, by decide, by decide⟩, _, rfl, by decide⟩

theorem witness_EveryOperationIsDefinedInEveryState : Inv (after .cfgB [.newRx [0xE5]]) :=
  ⟨by decide, by decide, by decide, by decide, by decide, by decide, by decide⟩

/-! ### Witnesses: lifecycle -/

theorem witness_NewRxLoadsTheReceivedBytes :
    (State.resetWith .cfgB).fcap < (List.replicate 29 (0 : Byte)).length
    ∧ (List.replicate 28 (0 : Byte)).length ≤ (State.resetWith .cfgB).fcap
    ∧ ([] : List Byte).length ≤ (State.resetWith .cfgB).fcap := by decide

theorem witness_LoadingThroughThePortFirstIsTheSame :
    wellFormedConfig (State.resetWith .cfgB).cfg = true
    ∧ (List.replicate 28 (7 : Byte)).length ≤ (State.resetWith .cfgB).fcap := by decide

/-! ### Witnesses: setters. For each form the wrong mode, the wrong stage, one byte too few, exactly enough. -/

/-- The four branches of a setter's rule: `(mode wrong, order wrong, no room, room)`. -/
abbrev FourBranches (legal : State → Prop) (size : State → Nat) (idle order full fits : State) : Prop :=
  idle.mode ≠ .tx ∧ (order.mode = .tx ∧ ¬ legal order)
  ∧ (full.mode = .tx ∧ legal full ∧ full.fcap + 1 = size full + full.rsvd)
  ∧ (fits.mode = .tx ∧ legal fits ∧ size fits + fits.rsvd = fits.fcap)

theorem witness_SetProtocolWritesTheTwoHeaderBytes :
    FourBranches (fun s => s.stage = .empty) (fun _ => 2) State.reset (after .cfgB boundaryRun)
      (after (room 1) [.newTx]) (after (room 2) [.newTx]) := by decide

/-- A header of 2 bytes in a buffer of `n`. -/
def header (n : Nat) : State := after (room n) [.newTx, .setProtocol 0xE4]

theorem witness_SetNetIdAppendsTheNetworkId :
    FourBranches (fun s => s.stage = .proto) (fun s => s.fsz.toNat + 2) (parsed row32) (after .cfgB boundaryRun)
      (header 3) (header 4) := by decide

theorem witness_SetDstAppendsTheDestination :
    FourBranches (stageBetween 1 2) (fun s => s.fsz.toNat + 2) State.reset (after .cfgB boundaryRun) (header 3) (header 4)
    ∧ FourBranches (stageBetween 1 2) (fun s => s.fsz.toNat + 8) State.reset (after .cfgB [.newTx]) (header 9)
        (after (room 12) [.newTx, .setProtocol 0xE4, .setNetId 1]) := by decide

theorem witness_SetSrcAppendsTheSource :
    FourBranches (stageBetween 1 3) (fun s => s.fsz.toNat + 2) State.reset (after .cfgB boundaryRun) (header 3) (header 4)
    ∧ FourBranches (stageBetween 1 3) (fun s => s.fsz.toNat + 8) State.reset (after .cfgB [.newTx]) (header 9)
        (after (room 12) [.newTx, .setProtocol 0xE4, .setDstShort 1]) := by decide

theorem witness_SetPayldCopiesThePayload :
    FourBranches (stageBetween 1 4) (fun s => s.fsz.toNat + 12) State.reset (after .cfgA scenarioA) (header 13)
      (after .cfgB boundaryRun) := by decide

theorem witness_SetPayldSzRecordsTheSize :
    FourBranches (fun s => stageBetween 1 5 s ∧ s.desc.payldSz.toNat ≤ (1 : Half).toNat)
      (fun s => s.desc.payldOff.toNat + (1 : Half).toNat) State.reset (after .cfgA scenarioA) (header 2)
      (after (room 3) [.newTx, .setProtocol 0xE4, .setPayld [9]]) := by decide

theorem witness_SetMhopAppendsTheTrailer :
    FourBranches (stageBetween 1 5) (fun s => s.fsz.toNat + 3) State.reset
        (after .cfgA (scenarioA ++ [.setMhopShort 0 0])) (header 4) (header 5)
    ∧ FourBranches (stageBetween 1 5) (fun s => s.fsz.toNat + 9) State.reset (after .cfgB [.newTx])
        (header 10) (after (room 15) scenarioA) := by decide

theorem witness_RemainIsExactlyWhatSetPayldTakes :
    let s := after .cfgB boundaryRun
    Inv s ∧ (s.mode = .tx ∧ stageBetween 1 4 s) ∧ (List.replicate 12 (0 : Byte)).length ≤ s.remain
    ∧ s.remain < (List.replicate 13 (0 : Byte)).length := ⟨witness_Inv_tx, by decide⟩

theorem witness_InPlacePayloadEqualsCopiedPayload :
    let s := after .cfgB boundaryRun
    Inv s ∧ s.mode = .tx ∧ stageBetween 1 4 s ∧ (List.replicate 12 (0 : Byte)).length ≤ s.remain :=
  ⟨witness_Inv_tx, by decide⟩

/-! ### Witnesses: parser -/

theorem witness_ParseOutsideRxModeChangesNothing :
    State.reset.mode ≠ .rx ∧ (after .cfgB [.newTx]).mode ≠ .rx := by decide

/-- A frame that is accepted and one that is not, in RX mode and inside the buffer; the shortest and the fullest. -/
theorem witness_ParseAcceptsExactlyTheStructurallyValid :
    let s := after .cfgA [.newRx row32]
    let u := after .cfgA [.newRx [0xE4, 0x04, 0x34]]
    let v := after (room 2) [.newRx [0xE4, 0]]
    (s.mode = .rx ∧ s.headroom + s.fsz.toNat ≤ s.cap ∧ accepted s)
    ∧ (u.mode = .rx ∧ u.headroom + u.fsz.toNat ≤ u.cap ∧ ¬ accepted u)
    ∧ (v.mode = .rx ∧ v.headroom + v.fsz.toNat = v.cap ∧ accepted v) := by decide

theorem witness_ParseFormatFailureTouchesOnlyValidAndDescriptors :
    let u := after .cfgA [.newRx [0xE5, 0, 0, 0]]
    let v := after .cfgA [.newRx []]
    (u.mode = .rx ∧ u.headroom + u.fsz.toNat ≤ u.cap ∧ ¬ accepted u)
    ∧ (v.mode = .rx ∧ v.headroom + v.fsz.toNat ≤ v.cap ∧ ¬ accepted v) := by decide

/-- The two guarded clauses hold of the frame with every field, and fail to apply to the frame with none. -/
theorem witness_ParseCommitsEveryField :
    let s := after .cfgA [.newRx row32]
    let t := parsed row32
    (s.mode = .rx ∧ s.headroom + s.fsz.toNat ≤ s.cap ∧ accepted s)
    ∧ fctlN t.desc.fctl = true ∧ fctlI t.desc.fctl = true ∧ fctlMam t.desc.fctl ≠ 0 := by decide

/-- Row 32 of 95_test_vectors.md 2.5 as its logical fields. -/
def row32Frame : Frame :=
  { pid := 0xE4, fctl := 0xE6, netid := 0xBEEF, dst := 0x1122334455667788, src := 0xA1B2, ieh := 0x51,
    ieBody := [0x0A, 0x0B], payload := [0x48, 0x49], hops := 2, txaddr := 0x0102030405060708,
    mic := [0xF1, 0xF2, 0xF3, 0xF4] }

theorem test_frame_bytes : row32Frame.bytes = row32 := by decide

theorem witness_ParseRecoversEveryLaidOutFrame :
    let s := after .cfgA [.newRx row32]
    s.mode = .rx ∧ s.headroom + s.fsz.toNat ≤ s.cap ∧ row32Frame.ok s.cfg.pidCsma
    ∧ s.frameBytes = row32Frame.bytes := by
  refine ⟨?_, ?_, ?_, ?_⟩ <;> decide

/-- Two frames that differ in the payload only, accepted. -/
theorem witness_ParseReadsOnlyItsReadSet :
    let s := after .cfgA [.newRx [0xE4, 0x04, 0x34, 0x12, 0x48, 0x49]]
    let s' := after .cfgA [.newRx [0xE4, 0x04, 0x34, 0x12, 0x00, 0xFF]]
    s.mode = .rx ∧ s'.mode = .rx ∧ s.headroom + s.fsz.toNat ≤ s.cap ∧ s'.headroom + s'.fsz.toNat ≤ s'.cap
    ∧ s'.fsz = s.fsz ∧ s'.cfg.pidCsma = s.cfg.pidCsma ∧ (∀ o, inReadSet s o → s'.frByte o = s.frByte o)
    ∧ s'.frameBytes ≠ s.frameBytes := by
  refine ⟨by decide, by decide, by decide, by decide, by decide, by decide, fun o h => ?_, by decide⟩
  have key : ∀ o, o < 6 → inReadSet (after .cfgA [.newRx [0xE4, 0x04, 0x34, 0x12, 0x48, 0x49]]) o →
      (after .cfgA [.newRx [0xE4, 0x04, 0x34, 0x12, 0x00, 0xFF]]).frByte o
        = (after .cfgA [.newRx [0xE4, 0x04, 0x34, 0x12, 0x48, 0x49]]).frByte o := by decide
  exact key o h.1 h

theorem witness_ParseIsRepeatable :
    ∃ t, exec .parse (after .cfgA [.newRx row32]) = .next t ∧ respondedOk t := ⟨_, rfl, by decide⟩

/-- Scenario A built, then loaded into a buffer that it exactly fits. -/
theorem witness_BuildRun : BuildRun State.reset (after .cfgA scenarioA) :=
  .step (.step (.start (t := after .cfgA [.newTx]) (u := after .cfgA [.newTx, .setProtocol 0xE4]) rfl rfl rfl)
    (u := after .cfgA [.newTx, .setProtocol 0xE4, .setSrcShort 0x1234]) (i := .setSrcShort 0x1234) rfl rfl)
    (i := .setPayld [0x48, 0x49]) rfl rfl

theorem witness_BuildingThenParsingRecoversTheFrame :
    BuildRun State.reset (after .cfgA scenarioA)
    ∧ (after .cfgA scenarioA).fsz.toNat ≤ (State.resetWith (room 6)).fcap
    ∧ (State.resetWith (room 6)).cfg.pidCsma = State.reset.cfg.pidCsma := ⟨witness_BuildRun, by decide, by decide⟩

theorem witness_BuiltFrameIsItsFieldsInOrder : BuildRun State.reset (after .cfgA scenarioA) := witness_BuildRun

/-! ### Witnesses: access and the whole machine -/

theorem witness_BufRdReadsOneByte :
    (31 : Half).toNat < (State.resetWith .cfgB).cap ∧ (State.resetWith .cfgB).cap ≤ (32 : Half).toNat
    ∧ (0 : Half).toNat < (State.resetWith .cfgB).cap ∧ (State.resetWith .cfgB).cap ≤ (0xFFFF : Half).toNat := by decide

theorem witness_BufWrStoresOneByte :
    (31 : Half).toNat < (State.resetWith .cfgB).cap ∧ (State.resetWith .cfgB).cap ≤ (32 : Half).toNat := by decide

theorem witness_RegRdReadsEveryRegister :
    (0 : BitVec 6).toNat < (registerFile State.reset).length ∧ (27 : BitVec 6).toNat < (registerFile State.reset).length
    ∧ 28 ≤ (28 : BitVec 6).toNat ∧ 28 ≤ (63 : BitVec 6).toNat ∧ (registerFile State.reset).length = 28 := by decide

/-- First and last byte of the IE region (14 to 16), the payload (17, 18) and the integrity field (28 to 31). -/
theorem witness_DescribedFieldBytesAreReadable :
    let s := parsed row32
    Inv s ∧ s.described = true
    ∧ (s.headroom + s.desc.ieOff.toNat ≤ (14 : Half).toNat
        ∧ (16 : Half).toNat < s.headroom + s.desc.ieOff.toNat + s.desc.ieSz.toNat)
    ∧ (s.payldPtr ≤ (17 : Half).toNat ∧ (18 : Half).toNat < s.payldPtr + s.desc.payldSz.toNat)
    ∧ (s.headroom + s.desc.micOff.toNat ≤ (28 : Half).toNat
        ∧ (31 : Half).toNat < s.headroom + s.desc.micOff.toNat + s.desc.micSz.toNat) :=
  ⟨witness_Inv_rx, by decide, by decide, by decide, by decide⟩

theorem witness_FailureLeavesTheStateUnchanged :
    (∃ t, exec .setMic State.reset = .next t ∧ respondedFail t ∧ (Instr.setMic = .parse → State.reset.mode ≠ .rx))
    ∧ ∃ t, exec .parse (after .cfgB [.newTx]) = .next t ∧ respondedFail t
        ∧ (Instr.parse = .parse → (after .cfgB [.newTx]).mode ≠ .rx) :=
  ⟨⟨_, rfl, by decide, by decide⟩, ⟨_, rfl, by decide, by decide⟩⟩

theorem witness_OnlyLifecycleOperationsChangeTheMode :
    ∃ t, exec .newTx State.reset = .next t ∧ t.mode ≠ State.reset.mode := ⟨_, rfl, by decide⟩

theorem witness_CursorAndStageOnlyAdvance :
    let s := after .cfgB boundaryRun
    Inv s ∧ isLifecycle (.setPayld [1]) = false
    ∧ ∃ t, exec (.setPayld [1]) s = .next t ∧ s.fsz.toNat < t.fsz.toNat :=
  ⟨witness_Inv_tx, rfl, _, rfl, by decide⟩

/-- All three address roles chosen, and a trailer: then an operation. -/
theorem witness_AddressWidthIsFixedOnceChosen :
    let s := after .cfgB (boundaryRun ++ [.setMhopShort 1 2])
    (Inv s ∧ s.mode = .tx ∧ isLifecycle (.setDstLong 5) = false ∧ ∃ t, exec (.setDstLong 5) s = .next t)
    ∧ fctlDam s.desc.fctl ≠ 0 ∧ fctlSam s.desc.fctl ≠ 0 ∧ fctlMam s.desc.fctl ≠ 0 :=
  ⟨⟨⟨by decide, by decide, by decide, by decide, by decide, by decide, by decide⟩, by decide, rfl, _, rfl⟩, by decide⟩

/-- The three cases: constructed, parsed in RX mode (accepted and rejected), anything else. -/
theorem witness_ValidIsTheLastParseResult :
    (∃ t, exec .discard (parsed row32) = .next t ∧ respondedOk t)
    ∧ (∃ t, exec .parse (after .cfgA [.newRx row32]) = .next t ∧ respondedOk t)
    ∧ (∃ t, exec .parse (after .cfgA [.newRx [0xE5]]) = .next t ∧ respondedFail t)
    ∧ ∃ t, exec (.bufWr 0 0) (parsed row32) = .next t :=
  ⟨⟨_, rfl, by decide⟩, ⟨_, rfl, by decide⟩, ⟨_, rfl, by decide⟩, ⟨_, rfl⟩⟩

theorem witness_ParametersNeverChange :
    ∃ t, step { State.reset with inputs := [.request (encode .newTx)] } = .next t ∧ t.mode = .tx :=
  ⟨_, rfl, by decide⟩

theorem witness_HeadroomIsWrittenOnlyThroughTheBufferPort :
    let s := State.resetWith .cfgB
    (∀ a b, Instr.newRx [1, 2] ≠ .bufWr a b) ∧ (∃ t, exec (.newRx [1, 2]) s = .next t ∧ respondedOk t)
    ∧ 3 < s.headroom ∧ 0 < s.headroom :=
  ⟨by simp, ⟨_, rfl, by decide⟩, by decide, by decide⟩

theorem witness_SettersNeverWriteTheReservedTail :
    let s := after .cfgB boundaryRun
    wellFormedConfig s.cfg = true ∧ isSetter (.setPayld (List.replicate 12 1)) = true
    ∧ (∃ t, exec (.setPayld (List.replicate 12 1)) s = .next t ∧ respondedOk t)
    ∧ s.cap - s.rsvd ≤ 28 ∧ s.cap - s.rsvd ≤ 31 :=
  ⟨by decide, rfl, ⟨_, rfl, by decide⟩, by decide, by decide⟩

end Sys2Proof.Tests
end

/-! PROOFS. The statements of spec/00_scope.md: a step runs the decoded request (R14), a written field reads back (R10),
the parameters are constant (R5). First what the operations that are no setters can answer, then the three proofs. -/

namespace Sys2Proof.Machine

/-! ### Everything `NEW_RX` and the ports can answer -/

/-- `NEW_RX` (40_lifecycle.md R132) fails with no effect, or takes the data as the received frame. -/
theorem execNewRx_next {data : List Byte} {s t : State} (h : execNewRx data s = .next t) :
    (s.fcap < data.length ∧ t = s.respond (failResponse .capacity))
    ∨ (data.length ≤ s.fcap
      ∧ t = (((s.clearRegs.frWrite 0 data).setMode .rx).setFsz data.length).respond okResponse) := by
  unfold execNewRx at h
  split at h
  · exact .inl ⟨‹_›, raiseFail_next.mp h⟩
  · exact .inr ⟨Nat.le_of_not_lt ‹_›, complete_next.mp h⟩

/-- `BUF_RD` (44_access.md R200) answers an arbitrary byte beyond the buffer, else the byte at the address. -/
theorem execBufRd_next {addr : Half} {s t : State} (h : execBufRd addr s = .next t) :
    (s.cap ≤ addr.toNat
      ∧ t = (s.advanceDraws 1).respond
          { ok := false, rdata := .byte (Config.any8 s.draws), cause := some .range })
    ∨ (addr.toNat < s.cap
      ∧ t = s.respond { ok := true, rdata := .byte (s.bufByte addr.toNat), cause := none }) := by
  unfold execBufRd at h
  split at h
  · cases h; exact .inl ⟨‹_›, rfl⟩
  · cases h; exact .inr ⟨Nat.lt_of_not_le ‹_›, rfl⟩

/-- `BUF_WR` (44_access.md R201) fails beyond the buffer with no effect, else stores one byte. -/
theorem execBufWr_next {addr : Half} {b : Byte} {s t : State} (h : execBufWr addr b s = .next t) :
    (s.cap ≤ addr.toNat ∧ t = s.respond (failResponse .range))
    ∨ (addr.toNat < s.cap ∧ t = (s.store addr.toNat [b]).respond okResponse) := by
  unfold execBufWr at h
  split at h
  · exact .inl ⟨‹_›, raiseFail_next.mp h⟩
  · exact .inr ⟨Nat.lt_of_not_le ‹_›, complete_next.mp h⟩

/-- `REG_RD` (44_access.md R203) answers the register of the number, or an arbitrary word for a reserved number. -/
theorem execRegRd_next {idx : BitVec 6} {s t : State} (h : execRegRd idx s = .next t) :
    (∃ r, regOfIdx idx = some r
      ∧ t = s.respond { ok := true, rdata := .word (regValue s r), cause := none })
    ∨ (regOfIdx idx = none
      ∧ t = (s.advanceDraws 1).respond
          { ok := false, rdata := .word (Config.any64 s.draws), cause := some .reg }) := by
  unfold execRegRd at h
  split at h
  · cases h; exact .inl ⟨_, ‹_›, rfl⟩
  · cases h; exact .inr ⟨‹_›, rfl⟩

/-! ### A step on a pending request (00_scope.md R14) -/

/-- Taking the oldest input off the list leaves the later ones. -/
theorem State.dropInput_of_cons {s : State} {x : Input} {rest : List Input} (h : s.inputs = x :: rest) :
    s.dropInput = { s with inputs := rest } := by
  simp [State.dropInput, h]

/-- Under a well-formed configuration a pending request that decodes is carried out on the state without it. -/
theorem step_request {s : State} {r : Request} {rest : List Input} {i : Instr} (hc : wellFormedConfig s.cfg = true)
    (hin : s.inputs = .request r :: rest) (hd : decode r = .ok i) : step s = exec i s.dropInput := by
  simp [step, hc, hin, hd]

/-- Settles O6: the step's equation for a pending request, with the state without that request written out. -/
theorem stepRunsTheDecodedRequest : Obligations.StepRunsTheDecodedRequest := by
  intro s r rest i hc hin hd
  rw [step_request hc hin hd, State.dropInput_of_cons hin]

/-! ### A written field reads back (00_scope.md R10) -/

/-- Byte `i` of a byte string written at a frame offset, read at its own offset. -/
theorem State.frWrite_frByte_add (s : State) (o : Nat) (bs : List Byte) (i : Nat) (hi : i < bs.length) :
    (s.frWrite o bs).frByte (o + i) = bs[i] := by
  have hin : s.headroom + o ≤ s.headroom + (o + i) ∧ s.headroom + (o + i) < s.headroom + o + bs.length := by omega
  have hoff : s.headroom + (o + i) - (s.headroom + o) = i := by omega
  rw [State.frByte, State.frWrite_headroom, State.frWrite_bufByte, if_pos hin, hoff]
  simp [hi]

/-- A byte string written at a frame offset is read back whole. -/
theorem State.frWrite_frBytes (s : State) (o : Nat) (bs : List Byte) :
    (s.frWrite o bs).frBytes o bs.length = bs := by
  refine List.ext_getElem (by simp) fun i _ hi => ?_
  simp only [State.frBytes, List.getElem_map, List.getElem_range]
  exact s.frWrite_frByte_add o bs i hi

/-- A value written in `n` bytes reads back modulo the width of `n` bytes. -/
theorem State.frWrite_frRead (s : State) (o n : Nat) (v : Long) :
    (s.frWrite o (leBytes n v)).frRead o n = BitVec.ofNat 64 (v.toNat % 256 ^ n) := by
  have hbytes : (s.frWrite o (leBytes n v)).frBytes o n = leBytes n v := by
    simpa only [leBytes_length] using s.frWrite_frBytes o (leBytes n v)
  rw [State.frRead, hbytes, leValue_leBytes]

/-- Settles O38: 8 bytes hold the whole value, 2 bytes its low 16 bits. -/
theorem writtenFieldReadsBack : Obligations.WrittenFieldReadsBack := by
  intro s o v
  constructor
  · have hv : v.toNat % 256 ^ 8 = v.toNat := Nat.mod_eq_of_lt (lt_of_lt_of_eq v.isLt (by norm_num))
    rw [State.frWrite_frRead, hv, BitVec.ofNat_toNat, BitVec.setWidth_eq]
  · have hv : v.toNat % 256 ^ 2 = (v.setWidth 16).toNat := by rw [BitVec.toNat_setWidth]; norm_num
    rw [State.frWrite_frRead, hv, BitVec.ofNat_toNat]

/-! ### The parameters are constant (00_scope.md R5) -/

/-- A setter whose writes keep the parameters keeps them, whether it fails or completes. -/
theorem runSetter_cfg {c : Option Cause} {s s' t : State} (hs : s'.cfg = s.cfg) (h : runSetter c s s' = .next t) :
    t.cfg = s.cfg := by
  obtain ⟨_, -, rfl⟩ | ⟨-, rfl⟩ := runSetter_next h
  · rfl
  · exact hs

/-- A destination address of any width keeps the parameters. -/
theorem appendDst_cfg {n : Nat} {a : Long} {mask : Byte} {s t : State} (h : appendDst n a mask s = .next t) :
    t.cfg = s.cfg := runSetter_cfg (by simp) h

/-- A source address of any width keeps the parameters. -/
theorem appendSrc_cfg {n : Nat} {a : Long} {mask : Byte} {s t : State} (h : appendSrc n a mask s = .next t) :
    t.cfg = s.cfg := runSetter_cfg (by simp) h

/-- A trailer of any width keeps the parameters. -/
theorem appendMhop_cfg {n : Nat} {hops : Byte} {a : Long} {mask : Byte} {s t : State}
    (h : appendMhop n hops a mask s = .next t) : t.cfg = s.cfg := runSetter_cfg (by simp) h

/-- No operation writes registers 23 to 26. -/
theorem exec_cfg {i : Instr} {s t : State} (h : exec i s = .next t) : t.cfg = s.cfg := by
  cases i with
  | discard => rw [complete_next.mp h]; rfl
  | newTx => rw [complete_next.mp h]; rfl
  | newRx data => obtain ⟨-, rfl⟩ | ⟨-, rfl⟩ := execNewRx_next h <;> rfl
  | parse => obtain ⟨-, rfl⟩ | ⟨-, _, -, rfl⟩ | ⟨-, _, -, rfl⟩ := execParse_next h <;> rfl
  | setProtocol id => exact runSetter_cfg (by simp) h
  | setNetId id => exact runSetter_cfg (by simp) h
  | setDstShort addr => exact appendDst_cfg h
  | setDstLong addr => exact appendDst_cfg h
  | setSrcShort addr => exact appendSrc_cfg h
  | setSrcLong addr => exact appendSrc_cfg h
  | setPayld data => exact runSetter_cfg (by simp) h
  | setPayldSz len => exact runSetter_cfg (by simp) h
  | setMhopShort hops addr => exact appendMhop_cfg h
  | setMhopLong hops addr => exact appendMhop_cfg h
  | setMic => rw [raiseFail_next.mp h]; rfl
  | unassignedF => rw [raiseFail_next.mp h]; rfl
  | bufRd addr => obtain ⟨-, rfl⟩ | ⟨-, rfl⟩ := execBufRd_next h <;> rfl
  | bufWr addr b => obtain ⟨-, rfl⟩ | ⟨-, rfl⟩ := execBufWr_next h <;> rfl
  | regRd idx => obtain ⟨_, -, rfl⟩ | ⟨-, rfl⟩ := execRegRd_next h <;> rfl

/-- Settles O49, along everything a step can do: wait, take a `RESET` event (70_reset_and_hazards.md R250), or run an
operation. -/
theorem parametersNeverChange : Obligations.ParametersNeverChange := by
  intro s t h
  obtain ⟨-, ⟨-, rfl⟩ | ⟨rest, -, rfl⟩ | ⟨r, i, rest, -, -, hexec⟩⟩ := step_next h
  · rfl
  · rfl
  · rw [exec_cfg hexec, State.dropInput_cfg]

end Sys2Proof.Machine

/-! PROOFS. The statements of spec/10_state.md. First everything an operation can answer, said once (`exec_answer`);
then the builder's bookkeeping in one flat form (`Built`) and that every field keeps it; then what a parsed frame's
descriptors say; from these the invariant and the statements about the cursor, the addresses, `VALID` and `REMAIN`. -/

namespace Sys2Proof.Machine

/-! ### The masks as Frame-Control bytes (30_encoding.md R103, 41_builder_header.md R140) -/

@[simp] theorem fctlN_or (f g : Byte) : fctlN (f ||| g) = (fctlN f || fctlN g) := BitVec.getLsbD_or
@[simp] theorem fctlI_or (f g : Byte) : fctlI (f ||| g) = (fctlI f || fctlI g) := BitVec.getLsbD_or
@[simp] theorem fctlDam_or (f g : Byte) : fctlDam (f ||| g) = fctlDam f ||| fctlDam g := BitVec.extractLsb'_or
@[simp] theorem fctlSam_or (f g : Byte) : fctlSam (f ||| g) = fctlSam f ||| fctlSam g := BitVec.extractLsb'_or
@[simp] theorem fctlMam_or (f g : Byte) : fctlMam (f ||| g) = fctlMam f ||| fctlMam g := BitVec.extractLsb'_or

@[simp] theorem fctlN_builderFctl (n : Bool) (dam sam mam : BitVec 2) : fctlN (builderFctl n dam sam mam) = n := by
  revert n dam sam mam; decide
@[simp] theorem fctlI_builderFctl (n : Bool) (dam sam mam : BitVec 2) :
    fctlI (builderFctl n dam sam mam) = false := by
  revert n dam sam mam; decide
@[simp] theorem fctlDam_builderFctl (n : Bool) (dam sam mam : BitVec 2) :
    fctlDam (builderFctl n dam sam mam) = dam := by
  revert n dam sam mam; decide
@[simp] theorem fctlSam_builderFctl (n : Bool) (dam sam mam : BitVec 2) :
    fctlSam (builderFctl n dam sam mam) = sam := by
  revert n dam sam mam; decide
@[simp] theorem fctlMam_builderFctl (n : Bool) (dam sam mam : BitVec 2) :
    fctlMam (builderFctl n dam sam mam) = mam := by
  revert n dam sam mam; decide

/-- What an address setter is given: a mode code that announces an address, the address's size in bytes, and a value
of that width (10_state.md R30). -/
structure AddressOperand (m : BitVec 2) (n : Nat) (a : Long) : Prop where
  present : m ≠ 0
  recognized : m ≠ 3
  size : n = aszD m
  fits : addressFits m a

theorem addressOperand_short (a : Half) : AddressOperand 1 2 (a.setWidth 64) where
  present := by decide
  recognized := by decide
  size := rfl
  fits := ⟨fun h => absurd h (by decide), fun _ => by
    rw [BitVec.toNat_setWidth_of_le (by decide)]
    exact a.isLt⟩

theorem addressOperand_long (a : Long) : AddressOperand 2 8 a where
  present := by decide
  recognized := by decide
  size := rfl
  fits := ⟨fun h => absurd h (by decide), fun h => absurd h (by decide)⟩

/-! ### Everything an operation can answer -/

/-- The state a successful setter leaves before it responds, one case per field of the frame, with the stage law and
the capacity check it passed (41_builder_header.md R140 to R146, 42_builder_payload_trailer.md R161 to R165). -/
inductive FieldSet (s : State) : State → Prop where
  | protocol (id : Byte) (hstage : stageBetween 0 0 s) (hroom : 2 + s.rsvd ≤ s.fcap) :
      FieldSet s ((((s.frWrite 0 [id, 0]).setDesc { s.desc with pid := id, fctl := 0 }).setFsz 2).endField .proto)
  | netId (id : Half) (hstage : stageBetween 1 1 s) (hroom : s.fsz.toNat + 2 + s.rsvd ≤ s.fcap) :
      FieldSet s (((s.appendField { s.desc with netid := id, netidOff := s.fsz } (leBytes 2 (id.setWidth 64))).orFctl
        (builderFctl true 0 0 0)).endField .netid)
  | dst {m : BitVec 2} {n : Nat} {a : Long} (ha : AddressOperand m n a) (hstage : stageBetween 1 2 s)
      (hroom : s.fsz.toNat + n + s.rsvd ≤ s.fcap) :
      FieldSet s (((s.appendField { s.desc with dst := a, dstOff := s.fsz } (leBytes n a)).orFctl
        (builderFctl false m 0 0)).endField .dst)
  | src {m : BitVec 2} {n : Nat} {a : Long} (ha : AddressOperand m n a) (hstage : stageBetween 1 3 s)
      (hroom : s.fsz.toNat + n + s.rsvd ≤ s.fcap) :
      FieldSet s (((s.appendField { s.desc with src := a, srcOff := s.fsz } (leBytes n a)).orFctl
        (builderFctl false 0 m 0)).endField .src)
  | payld (data : List Byte) (hstage : stageBetween 1 4 s) (hroom : s.fsz.toNat + data.length + s.rsvd ≤ s.fcap) :
      FieldSet s ((s.appendField { s.desc with payldOff := s.fsz, payldSz := BitVec.ofNat 16 data.length }
        data).endField .payld)
  | payldSz (len : Half) (hstage : stageBetween 1 5 s) (hgrow : s.desc.payldSz.toNat ≤ len.toNat)
      (hroom : s.desc.payldOff.toNat + len.toNat + s.rsvd ≤ s.fcap) :
      FieldSet s (((s.setDesc { s.desc with payldSz := len }).setFsz
        (s.desc.payldOff.toNat + len.toNat)).endField .payld)
  | mhop {m : BitVec 2} {n : Nat} {a : Long} (hops : Byte) (ha : AddressOperand m n a) (hstage : stageBetween 1 5 s)
      (hroom : s.fsz.toNat + (1 + n) + s.rsvd ≤ s.fcap) :
      FieldSet s (((s.appendField { s.desc with hops := hops, txaddr := a, mhopOff := s.fsz }
        (hops :: leBytes n a)).orFctl (builderFctl false 0 0 m)).endField .mhop)

/-- Everything an operation can answer in a state. -/
inductive Answer (s : State) : Instr → State → Prop where
  /-- A failure with no effect; `PARSE` fails so outside RX mode only. -/
  | failed (i : Instr) (c : Cause) (hparse : i = .parse → s.mode ≠ .rx) : Answer s i (s.respond (failResponse c))
  | discard : Answer s .discard ((s.clearRegs.setMode .idle).respond okResponse)
  | newTx : Answer s .newTx ((s.clearRegs.setMode .tx).respond okResponse)
  | newRx (data : List Byte) (hroom : data.length ≤ s.fcap) :
      Answer s (.newRx data) ((((s.clearRegs.frWrite 0 data).setMode .rx).setFsz data.length).respond okResponse)
  /-- A format failure of `PARSE` (43_parser.md R188). -/
  | rejected (c : Cause) (hmode : s.mode = .rx) :
      Answer s .parse ((((s.setValid false).setDesc (arbitraryDesc s.draws)).advanceDraws 18).respond
        (failResponse c))
  | parsed (d : Desc) (hmode : s.mode = .rx) (hframe : parseFrame s = .ok d) :
      Answer s .parse (((s.setDesc d).setValid true).respond okResponse)
  | set {i : Instr} {t : State} (hi : isSetter i = true) (hmode : s.mode = .tx) (hset : FieldSet s t) :
      Answer s i (t.respond okResponse)
  /-- `BUF_RD`, in both its branches: a response, and at most a free value drawn. -/
  | bufRd (addr : Half) (k : Nat) (r : Response) : Answer s (.bufRd addr) ((s.advanceDraws k).respond r)
  | bufWr (addr : Half) (b : Byte) (haddr : addr.toNat < s.cap) :
      Answer s (.bufWr addr b) ((s.store addr.toNat [b]).respond okResponse)
  /-- `REG_RD`, in both its branches: a response, and at most a free value drawn. -/
  | regRd (idx : BitVec 6) (k : Nat) (r : Response) : Answer s (.regRd idx) ((s.advanceDraws k).respond r)

/-- A checked write fails with no effect, or answers its writes after the mode, the stage law and the capacity were
checked (41_builder_header.md R140). -/
theorem runSetter_answer {i : Instr} {lo hi z : Nat} {grow : Bool} {s s' t : State} (hset : isSetter i = true)
    (hwrites : stageBetween lo hi s → grow = true → z + s.rsvd ≤ s.fcap → FieldSet s s')
    (h : runSetter (builderCheck (stageIn lo hi s.stage && grow) z s) s s' = .next t) : Answer s i t := by
  obtain ⟨c, -, rfl⟩ | ⟨hcheck, rfl⟩ := runSetter_next h
  · exact .failed i c (by rintro rfl; cases hset)
  · obtain ⟨hmode, hlegal, hroom⟩ := builderCheck_none.mp hcheck
    obtain ⟨hstage, hgrow⟩ := Bool.and_eq_true_iff.mp hlegal
    exact .set hset hmode (hwrites (stageIn_iff.mp hstage) hgrow hroom)

/-- The same for the setters whose only condition of their own is the stage law. -/
theorem runSetter_stage_answer {i : Instr} {lo hi z : Nat} {s s' t : State} (hset : isSetter i = true)
    (hwrites : stageBetween lo hi s → z + s.rsvd ≤ s.fcap → FieldSet s s')
    (h : runSetter (builderCheck (stageIn lo hi s.stage) z s) s s' = .next t) : Answer s i t := by
  rw [← Bool.and_true (stageIn lo hi s.stage)] at h
  exact runSetter_answer hset (fun hstage _ => hwrites hstage) h

theorem appendDst_answer {i : Instr} {m : BitVec 2} {n : Nat} {a : Long} {s t : State} (hset : isSetter i = true)
    (ha : AddressOperand m n a) (h : appendDst n a (builderFctl false m 0 0) s = .next t) : Answer s i t :=
  runSetter_stage_answer hset (.dst ha) h

theorem appendSrc_answer {i : Instr} {m : BitVec 2} {n : Nat} {a : Long} {s t : State} (hset : isSetter i = true)
    (ha : AddressOperand m n a) (h : appendSrc n a (builderFctl false 0 m 0) s = .next t) : Answer s i t :=
  runSetter_stage_answer hset (.src ha) h

theorem appendMhop_answer {i : Instr} {m : BitVec 2} {n : Nat} {hops : Byte} {a : Long} {s t : State}
    (hset : isSetter i = true) (ha : AddressOperand m n a)
    (h : appendMhop n hops a (builderFctl false 0 0 m) s = .next t) : Answer s i t :=
  runSetter_stage_answer hset (.mhop hops ha) h

/-- The inversion of `exec`: every next state is one of the answers. -/
theorem exec_answer {i : Instr} {s t : State} (h : exec i s = .next t) : Answer s i t := by
  cases i with
  | discard => rw [complete_next.mp h]; exact .discard
  | newTx => rw [complete_next.mp h]; exact .newTx
  | newRx data =>
    obtain ⟨-, rfl⟩ | ⟨hroom, rfl⟩ := execNewRx_next h
    · exact .failed _ _ nofun
    · exact .newRx data hroom
  | parse =>
    obtain ⟨hmode, rfl⟩ | ⟨hmode, c, -, rfl⟩ | ⟨hmode, d, hd, rfl⟩ := execParse_next h
    · exact .failed _ _ fun _ => hmode
    · exact .rejected c hmode
    · exact .parsed d hmode hd
  | setProtocol id => exact runSetter_stage_answer rfl (.protocol id) h
  | setNetId id => exact runSetter_stage_answer rfl (.netId id) h
  | setDstShort a => exact appendDst_answer rfl (addressOperand_short a) h
  | setDstLong a => exact appendDst_answer rfl (addressOperand_long a) h
  | setSrcShort a => exact appendSrc_answer rfl (addressOperand_short a) h
  | setSrcLong a => exact appendSrc_answer rfl (addressOperand_long a) h
  | setPayld data => exact runSetter_stage_answer rfl (.payld data) h
  | setPayldSz len =>
    exact runSetter_answer rfl (fun hstage hgrow => .payldSz len hstage (of_decide_eq_true hgrow)) h
  | setMhopShort hops a => exact appendMhop_answer rfl (addressOperand_short a) h
  | setMhopLong hops a => exact appendMhop_answer rfl (addressOperand_long a) h
  | setMic => rw [raiseFail_next.mp h]; exact .failed _ _ nofun
  | unassignedF => rw [raiseFail_next.mp h]; exact .failed _ _ nofun
  | bufRd addr =>
    obtain ⟨-, rfl⟩ | ⟨-, rfl⟩ := execBufRd_next h
    · exact .bufRd addr 1 _
    · exact .bufRd addr 0 _
  | bufWr addr b =>
    obtain ⟨-, rfl⟩ | ⟨haddr, rfl⟩ := execBufWr_next h
    · exact .failed _ _ nofun
    · exact .bufWr addr b haddr
  | regRd idx =>
    obtain ⟨r, -, rfl⟩ | ⟨-, rfl⟩ := execRegRd_next h
    · exact .regRd idx 0 _
    · exact .regRd idx 1 _

/-! ### The builder's bookkeeping (10_state.md R25, R31 to R33) -/

/-- The offsets of a frame without IE region and integrity field, for given sizes of its fields: each the one before
it plus the size between them (10_state.md R31). -/
abbrev Offsets (d : Desc) (z : Half) (netidSz dstSz srcSz paySz mhopSz : Nat) : Prop :=
  d.netidOff.toNat = 2
  ∧ d.dstOff.toNat = 2 + netidSz
  ∧ d.srcOff.toNat = d.dstOff.toNat + dstSz
  ∧ d.ieOff.toNat = d.srcOff.toNat + srcSz
  ∧ d.payldOff.toNat = d.ieOff.toNat
  ∧ d.mhopOff.toNat = d.payldOff.toNat + paySz
  ∧ d.micOff.toNat = d.mhopOff.toNat + mhopSz
  ∧ z.toNat = d.micOff.toNat

/-- The offsets for the sizes the descriptors themselves announce. -/
abbrev BuiltOffsets (d : Desc) (z : Half) : Prop :=
  Offsets d z (nsz (fctlN d.fctl)) (aszD (fctlDam d.fctl)) (aszD (fctlSam d.fctl)) d.payldSz.toNat
    (mszD (fctlMam d.fctl))

/-- A builder signals no IE region and no integrity field (10_state.md R32, R33). -/
abbrev NoIe (d : Desc) : Prop := fctlI d.fctl = false ∧ d.ieh = 0 ∧ d.ieSz = 0 ∧ d.micSz = 0

/-- `TxInv`'s claim about the descriptors after `SET_PROTOCOL`, without the sizes a builder leaves 0. -/
structure Built (k : Stage) (d : Desc) (z : Half) : Prop where
  noIe : NoIe d
  recognized : fctlDam d.fctl ≠ 3 ∧ fctlSam d.fctl ≠ 3 ∧ fctlMam d.fctl ≠ 3
  offsets : BuiltOffsets d z
  values : ValuesFit d
  after : NothingAfterStage k d

theorem recognizedFctl_iff {f : Byte} :
    recognizedFctl f = true ↔ fctlDam f ≠ 3 ∧ fctlSam f ≠ 3 ∧ fctlMam f ≠ 3 := by
  simp only [recognizedFctl, decide_eq_true_eq]

/-- Without an IE region the sizes signalled are 0 (10_state.md R32, R33). -/
theorem sizesSignalled_noIe {d : Desc} (h : fctlI d.fctl = false) :
    SizesSignalled d ↔ d.ieh = 0 ∧ d.ieSz = 0 ∧ d.micSz = 0 := by
  simp only [SizesSignalled, ieRegionSize, micFieldSize, h, Bool.false_eq_true, if_false, false_imp_iff, true_and,
    forall_const, BitVec.toNat_eq, BitVec.ofNat_eq_ofNat, BitVec.toNat_ofNat, Nat.zero_mod]
  exact ⟨fun ⟨hie, hmic, hieh⟩ => ⟨hieh, hie, hmic⟩, fun ⟨hieh, hie, hmic⟩ => ⟨hie, hmic, hieh⟩⟩

/-- Without an IE region and an integrity field the offsets' equalities are those of a built frame. -/
theorem consistent_noIe {d : Desc} {z : Half} (hie : d.ieSz = 0) (hmic : d.micSz = 0) :
    Consistent d z ↔ recognizedFctl d.fctl = true ∧ BuiltOffsets d z := by
  simp only [Consistent, hie, hmic, BitVec.ofNat_eq_ofNat, BitVec.toNat_ofNat, Nat.zero_mod, Nat.add_zero]
  refine and_congr_right fun _ => and_congr_right fun hnetid => ?_
  rw [hnetid]

/-- `Built` is the claim of `TxInv` about the descriptors. -/
theorem built_iff {k : Stage} {d : Desc} {z : Half} :
    Built k d z ↔ Describes d z ∧ fctlI d.fctl = false ∧ NothingAfterStage k d := by
  constructor
  · rintro ⟨⟨hno, hieh, hie, hmic⟩, hrec, hoff, hval, hafter⟩
    exact ⟨⟨(consistent_noIe hie hmic).mpr ⟨recognizedFctl_iff.mpr hrec, hoff⟩,
      (sizesSignalled_noIe hno).mpr ⟨hieh, hie, hmic⟩, hval⟩, hno, hafter⟩
  · rintro ⟨⟨hcons, hsizes, hval⟩, hno, hafter⟩
    obtain ⟨hieh, hie, hmic⟩ := (sizesSignalled_noIe hno).mp hsizes
    obtain ⟨hrec, hoff⟩ := (consistent_noIe hie hmic).mp hcons
    exact ⟨⟨hno, hieh, hie, hmic⟩, recognizedFctl_iff.mp hrec, hoff, hval, hafter⟩

@[simp] theorem nsz_false : nsz false = 0 := rfl
@[simp] theorem nsz_true : nsz true = 2 := rfl
@[simp] theorem aszD_zero : aszD 0#2 = 0 := rfl
@[simp] theorem mszD_zero : mszD 0#2 = 0 := rfl

/-! Each field's offset law: the field starts at the old cursor, and every later offset, its field absent, is the new
cursor (`TailOffsets`, 10_state.md R25). -/

section
variable {d : Desc} {z z' : Half} {netidSz dstSz srcSz paySz mhopSz : Nat}

theorem Offsets.netId (h : Offsets d z 0 0 0 0 0) (hz : z'.toNat = z.toNat + netidSz) (id : Half) (fctl : Byte) :
    Offsets ({ d with netid := id, netidOff := z, fctl := fctl }.tail z' .netid) z' netidSz 0 0 0 0 := by
  simp only [Offsets, Desc.tail, Nat.add_zero, and_self, and_true] at h ⊢
  omega

theorem Offsets.dst (h : Offsets d z netidSz 0 0 0 0) (hz : z'.toNat = z.toNat + dstSz) (a : Long) (fctl : Byte) :
    Offsets ({ d with dst := a, dstOff := z, fctl := fctl }.tail z' .dst) z' netidSz dstSz 0 0 0 := by
  simp only [Offsets, Desc.tail, Nat.add_zero, and_self, and_true] at h ⊢
  omega

theorem Offsets.src (h : Offsets d z netidSz dstSz 0 0 0) (hz : z'.toNat = z.toNat + srcSz) (a : Long) (fctl : Byte) :
    Offsets ({ d with src := a, srcOff := z, fctl := fctl }.tail z' .src) z' netidSz dstSz srcSz 0 0 := by
  simp only [Offsets, Desc.tail, Nat.add_zero, and_self, and_true] at h ⊢
  omega

theorem Offsets.payld (h : Offsets d z netidSz dstSz srcSz 0 0) (hz : z'.toNat = z.toNat + paySz) (n : Half) :
    Offsets ({ d with payldOff := z, payldSz := n }.tail z' .payld) z' netidSz dstSz srcSz paySz 0 := by
  simp only [Offsets, Desc.tail, Nat.add_zero, and_self, and_true] at h ⊢
  omega

theorem Offsets.payldSz (h : Offsets d z netidSz dstSz srcSz paySz 0) {n : Half}
    (hz : z'.toNat = d.payldOff.toNat + n.toNat) :
    Offsets ({ d with payldSz := n }.tail z' .payld) z' netidSz dstSz srcSz n.toNat 0 := by
  simp only [Offsets, Desc.tail, Nat.add_zero, and_self, and_true] at h ⊢
  omega

theorem Offsets.mhop (h : Offsets d z netidSz dstSz srcSz paySz 0) (hz : z'.toNat = z.toNat + mhopSz)
    (hops : Byte) (a : Long) (fctl : Byte) :
    Offsets ({ d with hops := hops, txaddr := a, mhopOff := z, fctl := fctl }.tail z' .mhop) z' netidSz dstSz srcSz
      paySz mhopSz := by
  simp only [Offsets, Desc.tail, Nat.add_zero, and_true] at h ⊢
  omega

end

/-- `SET_PROTOCOL` on the reset values (41_builder_header.md R141). -/
theorem built_protocol (id : Byte) :
    Built .proto (({ Desc.zero with pid := id, fctl := 0 } : Desc).tail 2 .proto) 2 := by
  have h : Built .proto (Desc.zero.tail 2 .proto) 2 := ⟨by decide, by decide, by decide, by decide, by decide⟩
  exact ⟨h.noIe, h.recognized, h.offsets, h.values, h.after⟩

/-- `SET_NET_ID` keeps the bookkeeping (41_builder_header.md R142). -/
theorem Built.netId {k : Stage} {d : Desc} {z z' : Half} (h : Built k d z) (hk : stageCode k < 2) (id : Half)
    (hz : z'.toNat = z.toNat + 2) :
    Built .netid (({ d with netid := id, netidOff := z, fctl := d.fctl ||| builderFctl true 0 0 0 } : Desc).tail z'
      .netid) z' := by
  obtain ⟨hie, hrec, hoff, ⟨-, hval⟩, hN, hD, hS, hP, hM⟩ := h
  specialize hN (by omega); specialize hD (by omega); specialize hS (by omega)
  specialize hP (by omega); specialize hM (by omega)
  constructor
  · simpa [NoIe] using hie
  · simpa using hrec
  · rw [BuiltOffsets, hN, hD, hS, hP, hM] at hoff
    simpa [BuiltOffsets, hD, hS, hP, hM] using Offsets.netId hoff hz id _
  · simpa [ValuesFit] using hval
  · simp [NothingAfterStage, stageCode, hD, hS, hP, hM]

/-- The destination setters keep the bookkeeping (41_builder_header.md R143, R144). -/
theorem Built.dst {k : Stage} {d : Desc} {z z' : Half} (h : Built k d z) (hk : stageCode k < 3) {m : BitVec 2}
    {n : Nat} {a : Long} (ha : AddressOperand m n a) (hz : z'.toNat = z.toNat + n) :
    Built .dst (({ d with dst := a, dstOff := z, fctl := d.fctl ||| builderFctl false m 0 0 } : Desc).tail z' .dst)
      z' := by
  obtain ⟨hie, ⟨-, hrec⟩, hoff, ⟨hnet, -, hval⟩, -, hD, hS, hP, hM⟩ := h
  obtain ⟨-, hm, hn, hfits⟩ := ha
  specialize hD (by omega); specialize hS (by omega); specialize hP (by omega); specialize hM (by omega)
  constructor
  · simpa [NoIe] using hie
  · simpa [hD] using ⟨hm, hrec⟩
  · rw [BuiltOffsets, hD, hS, hP, hM] at hoff
    simpa [BuiltOffsets, hD, hS, hP, hM, ← hn] using Offsets.dst hoff hz a _
  · simpa [ValuesFit, hD] using ⟨hnet, hfits, hval⟩
  · simp [NothingAfterStage, stageCode, hS, hP, hM]

/-- The source setters keep the bookkeeping (41_builder_header.md R145, R146). -/
theorem Built.src {k : Stage} {d : Desc} {z z' : Half} (h : Built k d z) (hk : stageCode k < 4) {m : BitVec 2}
    {n : Nat} {a : Long} (ha : AddressOperand m n a) (hz : z'.toNat = z.toNat + n) :
    Built .src (({ d with src := a, srcOff := z, fctl := d.fctl ||| builderFctl false 0 m 0 } : Desc).tail z' .src)
      z' := by
  obtain ⟨hie, ⟨hrecD, -, hrecM⟩, hoff, ⟨hnet, hdst, -, hval⟩, -, -, hS, hP, hM⟩ := h
  obtain ⟨-, hm, hn, hfits⟩ := ha
  specialize hS (by omega); specialize hP (by omega); specialize hM (by omega)
  constructor
  · simpa [NoIe] using hie
  · simpa [hS] using ⟨hrecD, hm, hrecM⟩
  · rw [BuiltOffsets, hS, hP, hM] at hoff
    simpa [BuiltOffsets, hS, hP, hM, ← hn] using Offsets.src hoff hz a _
  · simpa [ValuesFit, hS] using ⟨hnet, hdst, hfits, hval⟩
  · simp [NothingAfterStage, stageCode, hP, hM]

/-- `SET_PAYLD` keeps the bookkeeping (42_builder_payload_trailer.md R161). -/
theorem Built.payld {k : Stage} {d : Desc} {z z' : Half} (h : Built k d z) (hk : stageCode k < 5) {n : Half}
    (hz : z'.toNat = z.toNat + n.toNat) :
    Built .payld (({ d with payldOff := z, payldSz := n } : Desc).tail z' .payld) z' := by
  obtain ⟨hie, hrec, hoff, hval, -, -, -, hP, hM⟩ := h
  specialize hP (by omega); specialize hM (by omega)
  refine ⟨hie, hrec, ?_, hval, ?_⟩
  · rw [BuiltOffsets, hP, hM] at hoff
    simpa [BuiltOffsets, hM] using Offsets.payld hoff hz n
  · simp [NothingAfterStage, stageCode, hM]

/-- `SET_PAYLD_SZ` keeps the bookkeeping (42_builder_payload_trailer.md R162). -/
theorem Built.payldSz {k : Stage} {d : Desc} {z z' : Half} (h : Built k d z) (hk : stageCode k < 6) {n : Half}
    (hz : z'.toNat = d.payldOff.toNat + n.toNat) :
    Built .payld (({ d with payldSz := n } : Desc).tail z' .payld) z' := by
  obtain ⟨hie, hrec, hoff, hval, -, -, -, -, hM⟩ := h
  specialize hM (by omega)
  refine ⟨hie, hrec, ?_, hval, ?_⟩
  · rw [BuiltOffsets, hM] at hoff
    simpa [BuiltOffsets, hM] using Offsets.payldSz hoff hz
  · simp [NothingAfterStage, stageCode, hM]

/-- The trailer setters keep the bookkeeping (42_builder_payload_trailer.md R164, R165). -/
theorem Built.mhop {k : Stage} {d : Desc} {z z' : Half} (h : Built k d z) (hk : stageCode k < 6) (hops : Byte)
    {m : BitVec 2} {n : Nat} {a : Long} (ha : AddressOperand m n a) (hz : z'.toNat = z.toNat + (n + 1)) :
    Built .mhop (({ d with hops := hops, txaddr := a, mhopOff := z, fctl := d.fctl ||| builderFctl false 0 0 m }
      : Desc).tail z' .mhop) z' := by
  obtain ⟨hie, ⟨hrecD, hrecS, -⟩, hoff, ⟨hnet, hdst, hsrc, -⟩, -, -, -, -, hM⟩ := h
  obtain ⟨hm0, hm, hn, hfits⟩ := ha
  have hmsz : mszD m = n + 1 := by rw [mszD_eq hm hm0, hn, Nat.add_comm]
  specialize hM (by omega)
  constructor
  · simpa [NoIe] using hie
  · simpa [hM] using ⟨hrecD, hrecS, hm⟩
  · rw [BuiltOffsets, hM] at hoff
    simpa [BuiltOffsets, hM, hmsz] using Offsets.mhop hoff hz hops a _
  · simpa [ValuesFit, hM] using ⟨hnet, hdst, hsrc, hfits, fun h => absurd h hm0⟩
  · simp [NothingAfterStage, stageCode]

/-! ### What a successful `PARSE` commits (43_parser.md R181 to R187) -/

/-- A value read from `n` bytes has `n` bytes. -/
theorem State.frRead_lt (s : State) (o n : Nat) : (s.frRead o n).toNat < 256 ^ n := by
  have h := leValue_lt (s.frBytes o n)
  rw [State.frBytes_length] at h
  rw [State.frRead, BitVec.toNat_ofNat]
  exact Nat.lt_of_le_of_lt (Nat.mod_le ..) h

/-- An absent field reads as 0. -/
@[simp] theorem State.frRead_zero (s : State) (o : Nat) : s.frRead o 0 = 0 := rfl

/-- An address read in the bytes its mode code announces fits its register (10_state.md R30). -/
theorem addressFits_frRead (s : State) (o : Nat) (m : BitVec 2) : addressFits m (s.frRead o (aszD m)) := by
  constructor
  · rintro rfl; rfl
  · rintro rfl; exact s.frRead_lt o 2

/-- The IE registers a parse commits agree with the signalling bytes (10_state.md R32, R33). -/
theorem parseIe_signalled {s : State} {len c : Nat} {f : Byte} {e : IeInfo} (h : parseIe s len c (fctlI f) = .ok e) :
    e.ieSz = ieRegionSize f e.ieh ∧ e.micSz = micFieldSize f e.ieh
      ∧ (fctlI f = true → recognizedIeh e.ieh = true) ∧ (fctlI f = false → e.ieh = 0) := by
  cases hf : fctlI f with
  | false =>
    rw [hf, parseIe_absent] at h
    cases h
    simp [ieRegionSize, micFieldSize, hf]
  | true =>
    rw [hf] at h
    obtain ⟨-, -, hz, hm, -⟩ := parseIe_ok h
    obtain ⟨hisc, hz⟩ := iesz_some hz
    obtain ⟨hmsc, hm⟩ := micsz_some hm
    have hrec : recognizedIeh e.ieh = true := decide_eq_true ⟨hisc, hmsc⟩
    simp [ieRegionSize, micFieldSize, hf, hrec, hz, hm]

/-- The trailer registers a parse commits fit the trailer's mode code (10_state.md R30). -/
theorem readMhop_fits (s : State) (o : Nat) {m : BitVec 2} (hm : m ≠ 3) :
    addressFits m (readMhop s o (mszD m)).txaddr ∧ (m = 0 → (readMhop s o (mszD m)).hops = 0) := by
  by_cases h0 : m = 0
  · subst h0
    exact ⟨⟨fun _ => rfl, fun h => absurd h (by decide)⟩, fun _ => rfl⟩
  · have hsz := mszD_eq hm h0
    refine ⟨?_, fun h => absurd h h0⟩
    simp only [readMhop, hsz, show 1 + aszD m ≠ 0 by omega, if_false, Nat.add_sub_cancel_left]
    exact addressFits_frRead s (o + 1) m

/-- The descriptors of a successful parse describe the frame, and carry the contention-access Protocol-Id (R187). -/
theorem parseFrame_describes {s : State} {d : Desc} (h : parseFrame s = .ok d) :
    Describes d s.fsz ∧ d.pid = s.cfg.pidCsma := by
  obtain ⟨f, e, netid, dst, src, c1, c2, c3, hpid, hfctl, hnet, hdst, hsrc, hie, hle, o, ho, hd⟩ := parseFrame_ok h
  obtain ⟨-, hcsma, hpid⟩ := parsePid_ok hpid
  obtain ⟨-, -, hdam, hsam, hmam⟩ := parseFctl_ok hfctl
  obtain ⟨hdam, hdsz⟩ := asz_some hdam
  obtain ⟨hsam, hssz⟩ := asz_some hsam
  obtain ⟨hmam, hmsz⟩ := msz_some hmam
  obtain ⟨hieSz, hmicSz, hcodes, hieh⟩ := parseIe_signalled hie
  obtain ⟨rfl, rfl⟩ := Prod.mk.inj (walkField_ok hnet).1
  obtain ⟨rfl, rfl⟩ := Prod.mk.inj (walkField_ok hdst).1
  obtain ⟨rfl, rfl⟩ := Prod.mk.inj (walkField_ok hsrc).1
  have hfsz := s.fsz.isLt
  simp only [hdsz, hssz, hmsz] at hle ho hd
  refine ⟨⟨?_, ?_, ?_⟩, hpid.trans hcsma⟩
  · rw [hd]
    refine ⟨recognizedFctl_iff.mpr ⟨hdam, hsam, hmam⟩, rfl, ?_⟩
    simp only [BitVec.ofNat_eq_ofNat, BitVec.toNat_ofNat] at hle ho ⊢
    omega
  · rw [hd]
    refine ⟨?_, ?_, hcodes, hieh⟩
    · rw [← hieSz]
      exact Nat.mod_eq_of_lt (by omega)
    · rw [← hmicSz]
      exact Nat.mod_eq_of_lt (by omega)
  · rw [hd]
    refine ⟨?_, addressFits_frRead s _ _, addressFits_frRead s _ _, readMhop_fits s o hmam⟩
    intro hN
    simp [hN]

/-! ### The shared parts of the invariant -/

/-- Memory in canonical form and inside the buffer, the two clauses of `Inv` about memory. -/
abbrev BufOk (s : State) : Prop := Memory.wf s.buf ∧ ∀ c ∈ s.buf, c.1 < s.cap

theorem BufOk.store {s : State} (h : BufOk s) {a : Nat} {bs : List Byte} (ha : a + bs.length ≤ s.cap) :
    BufOk (s.store a bs) :=
  ⟨Memory.writeList_wf bs a h.1, Memory.writeList_below bs h.2 ha⟩

theorem BufOk.orFctl {s : State} (h : BufOk s) (ha : s.headroom + 2 ≤ s.cap) (m : Byte) : BufOk (s.orFctl m) :=
  BufOk.store (s := s.setDesc _) h ha

theorem BufOk.appendField {s : State} (h : BufOk s) (d : Desc) {bs : List Byte}
    (ha : s.headroom + s.fsz.toNat + bs.length ≤ s.cap) : BufOk (s.appendField d bs) :=
  BufOk.store h ha

theorem BufOk.endField {s : State} (h : BufOk s) (k : Stage) : BufOk (s.endField k) := h

/-- The headroom is inside the buffer (00_scope.md R6). -/
theorem headroom_le_cap {s : State} (h : wellFormedConfig s.cfg = true) : s.headroom ≤ s.cap := by
  obtain ⟨-, h, -⟩ := of_decide_eq_true h
  exact h

/-- Cleared registers keep the invariant, whatever the mode; only in RX mode is there a frame (10_state.md R39,
40_lifecycle.md R130 to R132). -/
theorem inv_cleared {s : State} (hc : wellFormedConfig s.cfg = true) (hbuf : BufOk s)
    (hfit : s.headroom + s.fsz.toNat ≤ s.cap) (hstage : s.stage = .empty) (hvalid : s.valid = false)
    (hdesc : s.desc = Desc.zero) (hfsz : s.mode ≠ .rx → s.fsz = 0) : Inv s := by
  obtain ⟨hwf, hbelow⟩ := hbuf
  refine ⟨hc, hwf, hbelow, hfit, fun hm => ?_, fun hm => ?_, fun _ => ⟨hstage, fun h => ?_⟩⟩
  · exact ⟨hstage, hvalid, hfsz (by simp [hm]), hdesc⟩
  · exact ⟨hvalid, fun _ => ⟨hfsz (by simp [hm]), hdesc⟩, fun h => absurd hstage h⟩
  · rw [hvalid] at h; cases h

/-- Stage 0 is the empty frame's (10_state.md R23). -/
theorem eq_empty_of_stageCode {k : Stage} (h : stageCode k ≤ 0) : k = .empty := by
  cases k with
  | empty => rfl
  | _ => exact absurd h (by decide)

/-- In TX mode with a frame begun, the invariant gives the builder's bookkeeping and the free reserve. -/
theorem Inv.built {s : State} (h : Inv s) (hm : s.mode = .tx) (hstage : 1 ≤ stageCode s.stage) :
    Built s.stage s.desc s.fsz ∧ s.fsz.toNat + s.rsvd ≤ s.fcap := by
  obtain ⟨-, -, -, -, -, htx, -⟩ := h
  obtain ⟨-, -, hframe⟩ := htx hm
  have hne : s.stage ≠ .empty := fun he => absurd (he ▸ hstage) (by decide)
  obtain ⟨hdesc, hno, hroom, hafter⟩ := hframe hne
  exact ⟨built_iff.mpr ⟨hdesc, hno, hafter⟩, hroom⟩

/-- In TX mode before `SET_PROTOCOL` there is no frame. -/
theorem Inv.empty {s : State} (h : Inv s) (hm : s.mode = .tx) (hstage : stageCode s.stage ≤ 0) :
    s.fsz = 0 ∧ s.desc = Desc.zero := by
  obtain ⟨-, -, -, -, -, htx, -⟩ := h
  obtain ⟨-, hempty, -⟩ := htx hm
  exact hempty (eq_empty_of_stageCode hstage)

/-- A begun frame holds its two header bytes. -/
theorem Built.two_le {k : Stage} {d : Desc} {z : Half} (h : Built k d z) : 2 ≤ z.toNat := by
  obtain ⟨-, -, hoff, -, -⟩ := h
  omega

/-- What a state's frame needs of the buffer, given the capacity check's bound on it. -/
theorem fits_of_room {s : State} (hc : wellFormedConfig s.cfg = true) {n : Nat} (h : n + s.rsvd ≤ s.fcap) :
    s.headroom + n ≤ s.cap := by
  have := headroom_le_cap hc
  unfold State.fcap at h
  omega

/-- A frame begun in TX mode keeps the invariant when its bookkeeping and the reserve are right. -/
theorem inv_built {s : State} (hc : wellFormedConfig s.cfg = true) (hbuf : BufOk s) (hm : s.mode = .tx)
    (hvalid : s.valid = false) (hstage : s.stage ≠ .empty) (hroom : s.fsz.toNat + s.rsvd ≤ s.fcap)
    (hbuilt : Built s.stage s.desc s.fsz) : Inv s := by
  obtain ⟨hwf, hbelow⟩ := hbuf
  obtain ⟨hdesc, hno, hafter⟩ := built_iff.mp hbuilt
  refine ⟨hc, hwf, hbelow, fits_of_room hc hroom, fun h => ?_, fun _ => ?_, fun h => ?_⟩
  · rw [hm] at h; cases h
  · exact ⟨hvalid, fun h => absurd h hstage, fun _ => ⟨hdesc, hno, hroom, hafter⟩⟩
  · rw [hm] at h; cases h

/-! ### Setters -/

/-- A setter writes no register but its stage, the cursor and the descriptors. -/
theorem FieldSet.frame {s t : State} (h : FieldSet s t) : t.cfg = s.cfg ∧ t.mode = s.mode ∧ t.valid = s.valid := by
  cases h <;> simp

/-- A setter's stage is the stage of its field, at least the one before (10_state.md R23, R24). -/
theorem FieldSet.stage {s t : State} (h : FieldSet s t) :
    t.stage ≠ .empty ∧ stageCode s.stage ≤ stageCode t.stage := by
  cases h with
  | protocol _ hstage | netId _ hstage | dst _ hstage | src _ hstage | payld _ hstage | payldSz _ hstage
  | mhop _ _ hstage =>
    obtain ⟨-, hhi⟩ := hstage
    simp only [State.endField_stage]
    exact ⟨nofun, hhi.trans (by decide)⟩

/-- A setter keeps the frame's bookkeeping and the reserve (10_state.md R25, R31 to R33). -/
theorem FieldSet.built {s t : State} (hinv : Inv s) (hm : s.mode = .tx) (h : FieldSet s t) :
    t.fsz.toNat + s.rsvd ≤ s.fcap ∧ Built t.stage t.desc t.fsz := by
  have hfsz : ∀ {n : Nat}, n + s.rsvd ≤ s.fcap → (BitVec.ofNat 16 n).toNat = n :=
    fun h => setFsz_toNat (Nat.le_of_add_right_le h)
  have hprev (h : 1 ≤ stageCode s.stage) : Built s.stage s.desc s.fsz := (hinv.built hm h).1
  cases h with
  | protocol id hstage hroom =>
    obtain ⟨-, hdesc⟩ := hinv.empty hm hstage.2
    simp only [State.endField_desc, State.endField_fsz, State.endField_stage, State.setFsz_desc, State.setFsz_fsz,
      State.setDesc_desc, hdesc]
    exact ⟨hroom, built_protocol id⟩
  | netId id hstage hroom =>
    have hnext := (hprev hstage.1).netId (Nat.lt_succ_of_le hstage.2) id (hfsz hroom)
    simpa [hfsz hroom, leBytes_length, hroom] using hnext
  | dst ha hstage hroom =>
    have hnext := (hprev hstage.1).dst (Nat.lt_succ_of_le hstage.2) ha (hfsz hroom)
    simpa [hfsz hroom, leBytes_length, hroom] using hnext
  | src ha hstage hroom =>
    have hnext := (hprev hstage.1).src (Nat.lt_succ_of_le hstage.2) ha (hfsz hroom)
    simpa [hfsz hroom, leBytes_length, hroom] using hnext
  | payld data hstage hroom =>
    have hlen : (BitVec.ofNat 16 data.length).toNat = data.length := setFsz_toNat (s := s) (by omega)
    have hnext := (hprev hstage.1).payld (Nat.lt_succ_of_le hstage.2) ((hfsz hroom).trans (by rw [hlen]))
    simpa [hfsz hroom, hroom] using hnext
  | payldSz len hstage hgrow hroom =>
    have hnext := (hprev hstage.1).payldSz (Nat.lt_succ_of_le hstage.2) (hfsz hroom)
    simpa [hfsz hroom, hroom] using hnext
  | mhop hops ha hstage hroom =>
    rw [Nat.add_comm 1] at hroom
    have hnext := (hprev hstage.1).mhop (Nat.lt_succ_of_le hstage.2) hops ha (hfsz hroom)
    simpa [hfsz hroom, leBytes_length, hroom] using hnext

/-- A setter never moves the cursor back (10_state.md R22). -/
theorem FieldSet.fsz_le {s t : State} (hinv : Inv s) (hm : s.mode = .tx) (h : FieldSet s t) :
    s.fsz.toNat ≤ t.fsz.toNat := by
  have happend {n : Nat} (hroom : s.fsz.toNat + n + s.rsvd ≤ s.fcap) :
      s.fsz.toNat ≤ (BitVec.ofNat 16 (s.fsz.toNat + n)).toNat := by
    rw [setFsz_toNat (Nat.le_of_add_right_le hroom)]
    exact Nat.le_add_right ..
  cases h with
  | protocol id hstage hroom =>
    obtain ⟨hfsz, -⟩ := hinv.empty hm hstage.2
    rw [hfsz]
    exact Nat.zero_le _
  | netId id hstage hroom => exact happend hroom
  | dst ha hstage hroom => exact happend (by rwa [leBytes_length])
  | src ha hstage hroom => exact happend (by rwa [leBytes_length])
  | payld data hstage hroom => exact happend hroom
  | payldSz len hstage hgrow hroom =>
    obtain ⟨⟨-, -, hoff, -, -, -, -, -, hM⟩, -⟩ := hinv.built hm hstage.1
    have hmsz : mszD (fctlMam s.desc.fctl) = 0 := by rw [hM (Nat.lt_succ_of_le hstage.2)]; rfl
    rw [State.endField_fsz, State.setFsz_fsz, setFsz_toNat (Nat.le_of_add_right_le hroom)]
    omega
  | mhop hops ha hstage hroom => exact happend (by rwa [List.length_cons, leBytes_length, Nat.add_comm _ 1])

/-- A setter keeps memory in canonical form and inside the buffer. -/
theorem FieldSet.bufOk {s t : State} (hinv : Inv s) (hm : s.mode = .tx) (h : FieldSet s t) : BufOk t := by
  obtain ⟨hc, hwf, hbelow, -⟩ := id hinv
  have hbuf : BufOk s := ⟨hwf, hbelow⟩
  have happend {d : Desc} {bs : List Byte} {n : Nat} (hn : bs.length = n)
      (hroom : s.fsz.toNat + n + s.rsvd ≤ s.fcap) : BufOk (s.appendField d bs) :=
    hbuf.appendField d (by have := fits_of_room hc hroom; omega)
  have hfctl (hstage : 1 ≤ stageCode s.stage) : s.headroom + 2 ≤ s.cap := by
    obtain ⟨hbuilt, hroom⟩ := hinv.built hm hstage
    have := hbuilt.two_le
    have := fits_of_room hc hroom
    omega
  cases h with
  | protocol id hstage hroom =>
    have hheader : BufOk (s.frWrite 0 [id, 0]) := hbuf.store (fits_of_room hc hroom)
    exact hheader
  | netId id hstage hroom => exact ((happend (leBytes_length ..) hroom).orFctl (hfctl hstage.1) _).endField _
  | dst ha hstage hroom => exact ((happend (leBytes_length ..) hroom).orFctl (hfctl hstage.1) _).endField _
  | src ha hstage hroom => exact ((happend (leBytes_length ..) hroom).orFctl (hfctl hstage.1) _).endField _
  | payld data hstage hroom => exact (happend rfl hroom).endField _
  | payldSz len hstage hgrow hroom => exact hbuf
  | mhop hops ha hstage hroom =>
    refine ((happend ?_ hroom).orFctl (hfctl hstage.1) _).endField _
    rw [List.length_cons, leBytes_length, Nat.add_comm]

/-- A setter keeps the invariant. -/
theorem FieldSet.inv {s t : State} (hinv : Inv s) (hm : s.mode = .tx) (h : FieldSet s t) : Inv t := by
  obtain ⟨hc, -, -, -, -, htx, -⟩ := id hinv
  obtain ⟨hcfg, hmode, hvalid⟩ := h.frame
  obtain ⟨hstage, -⟩ := h.stage
  obtain ⟨hroom, hbuilt⟩ := h.built hinv hm
  refine inv_built (hcfg ▸ hc) (h.bufOk hinv hm) (hmode.trans hm) (hvalid.trans (htx hm).1) hstage ?_ hbuilt
  simpa only [State.rsvd, State.fcap, State.cap, State.headroom, hcfg] using hroom

/-! ### The invariant (10_state.md R22 to R33) -/

/-- Settles O9: the registers after reset are their reset values by definition (10_state.md R39). -/
theorem resetValuesAreTheSpecs : Obligations.ResetValuesAreTheSpecs :=
  fun _ => ⟨rfl, fun _ => rfl⟩

/-- The reset state under a configuration of this hardware has its registers cleared and no byte written. -/
theorem inv_resetWith {c : Config} (hc : wellFormedConfig c = true) : Inv (State.resetWith c) :=
  inv_cleared hc ⟨List.Pairwise.nil, nofun⟩ (headroom_le_cap hc) rfl rfl rfl fun _ => rfl

/-- Settles O10. -/
theorem invariantHoldsAtReset : Obligations.InvariantHoldsAtReset :=
  ⟨inv_resetWith (by decide), fun _ => inv_resetWith⟩

/-- The invariant does not speak of the response. -/
theorem Inv.respond {s : State} (h : Inv s) (r : Response) : Inv (s.respond r) := h

/-- Bytes stored inside the buffer keep the invariant, which fixes no byte's value. -/
theorem Inv.store {s : State} (h : Inv s) {a : Nat} {bs : List Byte} (ha : a + bs.length ≤ s.cap) :
    Inv (s.store a bs) := by
  obtain ⟨hc, hwf, hbelow, hfit, hidle, htx, hrx⟩ := h
  obtain ⟨hwf', hbelow'⟩ := BufOk.store ⟨hwf, hbelow⟩ ha
  exact ⟨hc, hwf', hbelow', hfit, hidle, htx, hrx⟩

/-- In RX mode the invariant survives new descriptors, if they describe the frame or `VALID` is 0 (43_parser.md R187,
R188). -/
theorem inv_described {s : State} (hinv : Inv s) (hm : s.mode = .rx) {d : Desc} {v : Bool}
    (hd : v = true → Describes d s.fsz ∧ d.pid = s.cfg.pidCsma) : Inv ((s.setDesc d).setValid v) := by
  obtain ⟨hc, hwf, hbelow, hfit, -, -, hrx⟩ := hinv
  refine ⟨hc, hwf, hbelow, hfit, fun h => ?_, fun h => ?_, fun _ => ⟨(hrx hm).1, hd⟩⟩
  · rw [State.setValid_mode, State.setDesc_mode, hm] at h; cases h
  · rw [State.setValid_mode, State.setDesc_mode, hm] at h; cases h

/-- Every operation keeps the invariant. -/
theorem exec_inv {i : Instr} {s t : State} (hinv : Inv s) (h : exec i s = .next t) : Inv t := by
  obtain ⟨hc, hwf, hbelow, hfit, -⟩ := id hinv
  have hbuf : BufOk s := ⟨hwf, hbelow⟩
  cases exec_answer h with
  | failed i c hparse => exact hinv
  | discard => exact inv_cleared hc hbuf (headroom_le_cap hc) rfl rfl rfl fun _ => rfl
  | newTx => exact inv_cleared hc hbuf (headroom_le_cap hc) rfl rfl rfl fun _ => rfl
  | newRx data hroom =>
    have hcap : s.headroom + data.length ≤ s.cap := by
      have := headroom_le_cap hc
      unfold State.fcap at hroom
      omega
    refine inv_cleared hc (BufOk.store (s := s.clearRegs) hbuf hcap) ?_ rfl rfl rfl fun h => absurd rfl h
    simpa [setFsz_toNat hroom] using hcap
  | rejected c hmode => exact inv_described hinv hmode (v := false) nofun
  | parsed d hmode hframe => exact inv_described hinv hmode fun _ => parseFrame_describes hframe
  | set hi hmode hset => exact (hset.inv hinv hmode).respond _
  | bufRd addr k r => exact hinv
  | bufWr addr b haddr => exact (Inv.store hinv haddr).respond _
  | regRd idx k r => exact hinv

/-- Settles O11, along everything a step can do: wait, take a `RESET` event, or run an operation. -/
theorem everyStepKeepsTheInvariant : Obligations.EveryStepKeepsTheInvariant := by
  intro s t hinv h
  obtain ⟨hc, ⟨-, rfl⟩ | ⟨rest, -, rfl⟩ | ⟨r, i, rest, -, -, hexec⟩⟩ := step_next h
  · exact hinv
  · exact inv_cleared hc ⟨List.Pairwise.nil, nofun⟩ (headroom_le_cap hc) rfl rfl rfl fun _ => rfl
  · exact exec_inv (s := s.dropInput) hinv hexec

/-! ### The cursor, the addresses, `VALID` and `REMAIN` -/

/-- Settles O46: setters advance, and no other operation but the constructing ones writes `FSZ` or `STAGE`. -/
theorem cursorAndStageOnlyAdvance : Obligations.CursorAndStageOnlyAdvance := by
  intro i s t hinv hlife h
  cases exec_answer h with
  | discard => cases hlife
  | newTx => cases hlife
  | newRx data hroom => cases hlife
  | set hi hmode hset =>
    obtain ⟨-, hstage⟩ := hset.stage
    have hfsz := hset.fsz_le hinv hmode
    exact ⟨hfsz, hstage⟩
  | failed => exact ⟨le_rfl, le_rfl⟩
  | rejected => exact ⟨le_rfl, le_rfl⟩
  | parsed => exact ⟨le_rfl, le_rfl⟩
  | bufRd => exact ⟨le_rfl, le_rfl⟩
  | bufWr => exact ⟨le_rfl, le_rfl⟩
  | regRd => exact ⟨le_rfl, le_rfl⟩

/-- An address once chosen keeps its mode code and its value, for each of the three roles. -/
abbrev AddressesKept (d e : Desc) : Prop :=
  (fctlDam d.fctl ≠ 0 → fctlDam e.fctl = fctlDam d.fctl ∧ e.dst = d.dst)
  ∧ (fctlSam d.fctl ≠ 0 → fctlSam e.fctl = fctlSam d.fctl ∧ e.src = d.src)
  ∧ (fctlMam d.fctl ≠ 0 → fctlMam e.fctl = fctlMam d.fctl ∧ e.txaddr = d.txaddr)

theorem addressesKept_refl (d : Desc) : AddressesKept d d :=
  ⟨fun _ => ⟨rfl, rfl⟩, fun _ => ⟨rfl, rfl⟩, fun _ => ⟨rfl, rfl⟩⟩

/-- A setter leaves the addresses chosen before it; an address setter is in order only while its role has none
(10_state.md R24). -/
theorem FieldSet.addressesKept {s t : State} (hinv : Inv s) (hm : s.mode = .tx) (h : FieldSet s t) :
    AddressesKept s.desc t.desc := by
  have hafter (h : 1 ≤ stageCode s.stage) : NothingAfterStage s.stage s.desc := (hinv.built hm h).1.after
  cases h with
  | protocol id hstage hroom =>
    obtain ⟨-, hdesc⟩ := hinv.empty hm hstage.2
    rw [hdesc]
    exact ⟨fun h => absurd rfl h, fun h => absurd rfl h, fun h => absurd rfl h⟩
  | netId id hstage hroom => simp [AddressesKept]
  | dst ha hstage hroom =>
    obtain ⟨-, hD, -⟩ := hafter hstage.1
    simp [AddressesKept, hD (Nat.lt_succ_of_le hstage.2)]
  | src ha hstage hroom =>
    obtain ⟨-, -, hS, -⟩ := hafter hstage.1
    simp [AddressesKept, hS (Nat.lt_succ_of_le hstage.2)]
  | payld data hstage hroom => simp [AddressesKept]
  | payldSz len hstage hgrow hroom => simp [AddressesKept]
  | mhop hops ha hstage hroom =>
    obtain ⟨-, -, -, -, hM⟩ := hafter hstage.1
    simp [AddressesKept, hM (Nat.lt_succ_of_le hstage.2)]

/-- Settles O47: in TX mode only setters write the descriptors, and no `PARSE` runs. -/
theorem addressWidthIsFixedOnceChosen : Obligations.AddressWidthIsFixedOnceChosen := by
  intro i s t hinv hm hlife h
  cases exec_answer h with
  | discard => cases hlife
  | newTx => cases hlife
  | newRx data hroom => cases hlife
  | rejected c hmode => rw [hm] at hmode; cases hmode
  | parsed d hmode hframe => rw [hm] at hmode; cases hmode
  | set hi hmode hset =>
    have hkept := hset.addressesKept hinv hm
    exact hkept
  | failed => exact addressesKept_refl _
  | bufRd => exact addressesKept_refl _
  | bufWr => exact addressesKept_refl _
  | regRd => exact addressesKept_refl _

/-- No setter is a constructing operation. -/
theorem isLifecycle_of_isSetter {i : Instr} (h : isSetter i = true) : isLifecycle i = false := by
  cases i with
  | discard | newTx | newRx => cases h
  | _ => rfl

/-- Settles O48, along everything an operation can answer. -/
theorem validIsTheLastParseResult : Obligations.ValidIsTheLastParseResult := by
  intro i s t h
  cases exec_answer h with
  | failed i c hparse =>
    have hfail : ¬ respondedOk (s.respond (failResponse c)) := nofun
    rw [if_neg fun h => hfail h.2, if_neg fun ⟨hi, hmode⟩ => hparse hi hmode]
    rfl
  | discard => rfl
  | newTx => rfl
  | newRx data hroom => rfl
  | rejected c hmode => rw [if_neg nofun, if_pos ⟨rfl, hmode⟩]; rfl
  | parsed d hmode hframe => rw [if_neg nofun, if_pos ⟨rfl, hmode⟩]; rfl
  | set hi hmode hset =>
    obtain ⟨-, -, hvalid⟩ := hset.frame
    rw [if_neg ?_, if_neg ?_]
    · exact hvalid
    · rintro ⟨-, hrx⟩; rw [hmode] at hrx; cases hrx
    · rintro ⟨hlife, -⟩; rw [isLifecycle_of_isSetter hi] at hlife; cases hlife
  | bufRd addr k r => rw [if_neg nofun, if_neg nofun]; rfl
  | bufWr addr b haddr => rw [if_neg nofun, if_neg nofun]; rfl
  | regRd idx k r => rw [if_neg nofun, if_neg nofun]; rfl

/-- In TX mode `REMAIN` is the room the capacity check leaves (10_state.md R34). -/
theorem State.remain_tx {s : State} (h : s.mode = .tx) : s.remain = s.fcap - s.rsvd - s.fsz.toNat := if_pos h

/-- Settles O26: with the reserve free (`Inv`), `SET_PAYLD`'s capacity check compares the length with `REMAIN`. -/
theorem remainIsExactlyWhatSetPayldTakes : Obligations.RemainIsExactlyWhatSetPayldTakes := by
  intro s data hinv hm hstage
  have hlegal : stageIn 1 4 s.stage = true := stageIn_iff.mpr hstage
  obtain ⟨-, hroom⟩ := hinv.built hm hstage.1
  have hremain := State.remain_tx hm
  constructor
  · intro hlen
    have hfits : s.fsz.toNat + data.length + s.rsvd ≤ s.fcap := by omega
    have hcheck := builderCheck_none.mpr ⟨hm, hlegal, hfits⟩
    have hfsz : (BitVec.ofNat 16 (s.fsz.toNat + data.length)).toNat = s.fsz.toNat + data.length :=
      setFsz_toNat (Nat.le_of_add_right_le hfits)
    refine ⟨_, by rw [exec, execSetPayld, hcheck]; rfl, rfl, ?_⟩
    rw [State.remain_tx (by simpa using hm)]
    show s.fcap - s.rsvd - (BitVec.ofNat 16 (s.fsz.toNat + data.length)).toNat = _
    omega
  · intro hlen
    rw [exec, execSetPayld, builderCheck_capacity hm hlegal (by omega)]
    rfl

end Sys2Proof.Machine

/-! PROOFS. The statements of spec/20_memory.md: a multi-byte read is little-endian (R62, R63, R68); which bytes an
operation can write (R64 to R66). The key fact of the second part is that a setter writes only inside the bytes its
capacity check counted (`FieldSet.writesWithin`); both statements about writes follow from it. -/

namespace Sys2Proof.Machine

/-! ### Byte order of a read -/

/-- A concatenation whose low part is one byte, as a number. -/
theorem toNat_append_byte {w : Nat} (v : BitVec w) (b : Byte) : (v ++ b).toNat = b.toNat + 256 * v.toNat := by
  rw [BitVec.toNat_append, ← Nat.shiftLeft_add_eq_or_of_lt b.isLt, Nat.shiftLeft_eq]
  omega

/-- The value of a read, its first byte the least significant. -/
theorem State.leValue_frBytes_succ (s : State) (o n : Nat) :
    leValue (s.frBytes o (n + 1)) = (s.frByte o).toNat + 256 * leValue (s.frBytes (o + 1) n) := by
  rw [Nat.add_comm n 1, State.frBytes_add]
  rfl

/-- A read of at most 8 bytes loses nothing in its 64 bits. -/
theorem State.frRead_toNat (s : State) (o : Nat) {n : Nat} (hn : n ≤ 8) :
    (s.frRead o n).toNat = leValue (s.frBytes o n) := by
  have hval := leValue_lt (s.frBytes o n)
  rw [State.frBytes_length] at hval
  have hpow : 256 ^ n ≤ 2 ^ 64 := (Nat.pow_le_pow_right (by decide) hn).trans (by decide)
  rw [State.frRead, BitVec.toNat_ofNat, Nat.mod_eq_of_lt (hval.trans_le hpow)]

/-- Settles O37: both sides have the same number, the bytes summed with the lowest offset least significant. -/
theorem multiByteReadsAreLittleEndian : Obligations.MultiByteReadsAreLittleEndian := by
  intro s o
  constructor
  · apply BitVec.eq_of_toNat_eq
    rw [BitVec.toNat_setWidth_of_le (by decide), toNat_append_byte, State.frRead_toNat _ _ (by decide)]
    simp [State.leValue_frBytes_succ, State.frBytes_zero, leValue]
  · apply BitVec.eq_of_toNat_eq
    rw [State.frRead_toNat _ _ le_rfl]
    simp only [toNat_append_byte, State.leValue_frBytes_succ, State.frBytes_zero, leValue, Nat.add_assoc,
      Nat.mul_zero, Nat.add_zero, Nat.reduceAdd]

/-! ### Which bytes an operation writes -/

/-- From `s` to `t` no byte changed but, at most, the first `n` bytes of the frame (20_memory.md R64). -/
def WritesWithin (s t : State) (n : Nat) : Prop :=
  ∀ x, x < s.headroom ∨ s.headroom + n ≤ x → t.bufByte x = s.bufByte x

/-- A byte string written inside the first bytes of the frame. -/
theorem writesWithin_frWrite (s : State) {o n : Nat} {bs : List Byte} (h : o + bs.length ≤ n) :
    WritesWithin s (s.frWrite o bs) n := by
  intro x hx
  rw [State.frWrite_bufByte, if_neg (by omega)]

/-- A field appended at the cursor. -/
theorem writesWithin_appendField (s : State) (d : Desc) {n : Nat} {bs : List Byte}
    (h : s.fsz.toNat + bs.length ≤ n) :
    WritesWithin s (s.appendField d bs) n :=
  writesWithin_frWrite s h

/-- The update of Frame-Control, frame offset 1, stays inside the first `n` bytes where `n` is at least 2. -/
theorem WritesWithin.orFctl {s t : State} {n : Nat} (h : WritesWithin s t n) (hh : t.headroom = s.headroom)
    (hn : 2 ≤ n) (mask : Byte) : WritesWithin s (t.orFctl mask) n := by
  intro x hx
  rw [State.orFctl_bufByte, hh, if_neg (by omega)]
  exact h x hx

/-- The end of a field writes registers only. -/
theorem WritesWithin.endField {s t : State} {n : Nat} (h : WritesWithin s t n) (k : Stage) :
    WritesWithin s (t.endField k) n := h

/-- A present address has at least two bytes (30_encoding.md R95). -/
theorem AddressOperand.two_le {m : BitVec 2} {n : Nat} {a : Long} (h : AddressOperand m n a) : 2 ≤ n := by
  have hsizes : ∀ m : BitVec 2, m ≠ 0 → m ≠ 3 → 2 ≤ aszD m := by decide
  rw [h.size]
  exact hsizes m h.present h.recognized

/-- A field of two bytes or more appended, then announced in Frame-Control. -/
theorem writesWithin_appendField_orFctl (s : State) (d : Desc) (mask : Byte) {n : Nat} {bs : List Byte}
    (hlen : bs.length = n) (hn : 2 ≤ n) :
    WritesWithin s ((s.appendField d bs).orFctl mask) (s.fsz.toNat + n) :=
  (writesWithin_appendField s d (by rw [hlen])).orFctl rfl (by omega) mask

/-- A setter writes only inside the bytes its capacity check counted, which leave the reserve free (20_memory.md R66,
41_builder_header.md R140). -/
theorem FieldSet.writesWithin {s t : State} (h : FieldSet s t) :
    ∃ n, n + s.rsvd ≤ s.fcap ∧ WritesWithin s t n := by
  cases h with
  | protocol id _ hroom =>
    have hheader : WritesWithin s (s.frWrite 0 [id, 0]) 2 := writesWithin_frWrite s le_rfl
    exact ⟨2, hroom, hheader⟩
  | netId _ _ hroom =>
    exact ⟨_, hroom, (writesWithin_appendField_orFctl s _ _ (leBytes_length ..) le_rfl).endField _⟩
  | dst ha _ hroom =>
    exact ⟨_, hroom, (writesWithin_appendField_orFctl s _ _ (leBytes_length ..) ha.two_le).endField _⟩
  | src ha _ hroom =>
    exact ⟨_, hroom, (writesWithin_appendField_orFctl s _ _ (leBytes_length ..) ha.two_le).endField _⟩
  | payld _ _ hroom => exact ⟨_, hroom, (writesWithin_appendField s _ le_rfl).endField _⟩
  | payldSz _ _ _ hroom => exact ⟨_, hroom, fun _ _ => rfl⟩
  | mhop _ ha _ hroom =>
    have hlen := ha.two_le
    refine ⟨_, hroom, (writesWithin_appendField_orFctl s _ _ ?_ (by omega)).endField _⟩
    rw [List.length_cons, leBytes_length, Nat.add_comm]

/-- Settles O50: every operation but `BUF_WR` writes at frame offsets, if at all. -/
theorem headroomIsWrittenOnlyThroughTheBufferPort : Obligations.HeadroomIsWrittenOnlyThroughTheBufferPort := by
  intro i s t hport h x hx
  cases exec_answer h with
  | bufWr addr b => exact absurd rfl (hport addr b)
  | newRx data => exact writesWithin_frWrite s.clearRegs (Nat.zero_add data.length).le x (.inl hx)
  | set _ _ hset =>
    obtain ⟨n, -, hwrites⟩ := hset.writesWithin
    exact hwrites x (.inl hx)
  | failed | discard | newTx | rejected | parsed | bufRd | regRd => rfl

/-- Settles O51: a setter fails with no effect, or writes bytes that leave the reserve free; under a well-formed
configuration the capacity check's bound, taken from `HEADROOM` on, is the bound `CAP - MIC_RSVD`. -/
theorem settersNeverWriteTheReservedTail : Obligations.SettersNeverWriteTheReservedTail := by
  intro i s t hc hsetter h x hx
  cases exec_answer h with
  | failed => rfl
  | set _ _ hset =>
    obtain ⟨n, hroom, hwrites⟩ := hset.writesWithin
    have hbound : s.headroom + n + s.rsvd ≤ s.cap := by
      have := headroom_le_cap hc
      unfold State.fcap at hroom
      omega
    exact hwrites x (.inr (by omega))
  | discard | newTx | newRx | rejected | parsed | bufRd | bufWr | regRd => cases hsetter

end Sys2Proof.Machine

/-! PROOFS. The statements of spec/30_encoding.md. The first part is about port words (R106 to R113), the second about
the wire format (R90 to R103): how a frame's byte string falls into its fields, that `PARSE` takes every legal frame
apart into them (43_parser.md R181 to R187), and that the builder lays them out (41_builder_header.md R140). -/

namespace Sys2Proof

/-! ### Port words (30_encoding.md R106 to R113) -/

section
variable (hops : Byte) (len : Half) (arg : Long) (data : List Byte)

/-! One equation per operation code, whatever the other fields hold (R107, R108). -/

@[simp] theorem decode_mkCW_discard : decode (.command (mkCW 0x0 hops len arg) data) = .ok .discard := by
  simp [decode, decodeCommand]

@[simp] theorem decode_mkCW_newTx : decode (.command (mkCW 0x1 hops len arg) data) = .ok .newTx := by
  simp [decode, decodeCommand]

@[simp] theorem decode_mkCW_newRx :
    decode (.command (mkCW 0x2 hops len arg) data) = withData len data .newRx := by
  simp [decode, decodeCommand]

@[simp] theorem decode_mkCW_parse : decode (.command (mkCW 0x3 hops len arg) data) = .ok .parse := by
  simp [decode, decodeCommand]

@[simp] theorem decode_mkCW_setProtocol :
    decode (.command (mkCW 0x4 hops len arg) data) = .ok (.setProtocol (arg.setWidth 8)) := by
  simp [decode, decodeCommand, BitVec.setWidth_eq_extractLsb']

@[simp] theorem decode_mkCW_setNetId :
    decode (.command (mkCW 0x5 hops len arg) data) = .ok (.setNetId (arg.setWidth 16)) := by
  simp [decode, decodeCommand, BitVec.setWidth_eq_extractLsb']

@[simp] theorem decode_mkCW_setDstShort :
    decode (.command (mkCW 0x6 hops len arg) data) = .ok (.setDstShort (arg.setWidth 16)) := by
  simp [decode, decodeCommand, BitVec.setWidth_eq_extractLsb']

@[simp] theorem decode_mkCW_setDstLong :
    decode (.command (mkCW 0x7 hops len arg) data) = .ok (.setDstLong arg) := by
  simp [decode, decodeCommand]

@[simp] theorem decode_mkCW_setSrcShort :
    decode (.command (mkCW 0x8 hops len arg) data) = .ok (.setSrcShort (arg.setWidth 16)) := by
  simp [decode, decodeCommand, BitVec.setWidth_eq_extractLsb']

@[simp] theorem decode_mkCW_setSrcLong :
    decode (.command (mkCW 0x9 hops len arg) data) = .ok (.setSrcLong arg) := by
  simp [decode, decodeCommand]

@[simp] theorem decode_mkCW_setPayld :
    decode (.command (mkCW 0xA hops len arg) data) = withData len data .setPayld := by
  simp [decode, decodeCommand]

@[simp] theorem decode_mkCW_setPayldSz :
    decode (.command (mkCW 0xB hops len arg) data) = .ok (.setPayldSz len) := by
  simp [decode, decodeCommand]

@[simp] theorem decode_mkCW_setMhopShort :
    decode (.command (mkCW 0xC hops len arg) data) = .ok (.setMhopShort hops (arg.setWidth 16)) := by
  simp [decode, decodeCommand, BitVec.setWidth_eq_extractLsb']

@[simp] theorem decode_mkCW_setMhopLong :
    decode (.command (mkCW 0xD hops len arg) data) = .ok (.setMhopLong hops arg) := by
  simp [decode, decodeCommand]

@[simp] theorem decode_mkCW_setMic : decode (.command (mkCW 0xE hops len arg) data) = .ok .setMic := by
  simp [decode, decodeCommand]

@[simp] theorem decode_mkCW_unassignedF :
    decode (.command (mkCW 0xF hops len arg) data) = .ok .unassignedF := by
  simp [decode, decodeCommand]

end

@[simp] theorem decode_mkBW_read (addr : Half) (b : Byte) : decode (.buffer (mkBW 0 addr b)) = .ok (.bufRd addr) := by
  simp [decode, decodeBuffer]

@[simp] theorem decode_mkBW_write (addr : Half) (b : Byte) :
    decode (.buffer (mkBW 1 addr b)) = .ok (.bufWr addr b) := by
  simp [decode, decodeBuffer]

/-- A data string of exactly `len` bytes is taken (R106). -/
theorem withData_of_length {len : Half} {data : List Byte} (mk : List Byte → Instr) (h : data.length = len.toNat) :
    withData len data mk = .ok (mk data) := if_pos h

/-- A data string of another length is refused (log 8). -/
theorem withData_of_length_ne {len : Half} {data : List Byte} (mk : List Byte → Instr) (h : data.length ≠ len.toNat) :
    withData len data mk = .error (.dataLength len.toNat data.length) := if_neg h

/-- The length of a data string that the field `len` can hold stands there unchanged (R106). -/
theorem withData_ofNat_length {data : List Byte} (mk : List Byte → Instr) (h : data.length < 2 ^ 16) :
    withData (BitVec.ofNat 16 data.length) data mk = .ok (mk data) :=
  withData_of_length mk (by rw [BitVec.toNat_ofNat, Nat.mod_eq_of_lt h])

/-- A narrow operand comes back from the low bits of `arg` (R108). -/
theorem setWidth_setWidth_arg {n : Nat} (h : n ≤ 64) (v : BitVec n) : (v.setWidth 64).setWidth n = v := by
  rw [BitVec.setWidth_setWidth_of_le v h, BitVec.setWidth_eq]

/-- Settles O1: each operation's word by the equation of its code, each operand by the field it was put in. -/
theorem encodedInstructionDecodesToItself : Obligations.EncodedInstructionDecodesToItself := by
  intro i hi
  cases i with
  | newRx data =>
    exact (decode_mkCW_newRx ..).trans (withData_ofNat_length _ (of_decide_eq_true hi))
  | setPayld data =>
    exact (decode_mkCW_setPayld ..).trans (withData_ofNat_length _ (of_decide_eq_true hi))
  | setProtocol id => rw [encode, decode_mkCW_setProtocol, setWidth_setWidth_arg (by decide)]
  | setNetId id => rw [encode, decode_mkCW_setNetId, setWidth_setWidth_arg (by decide)]
  | setDstShort a => rw [encode, decode_mkCW_setDstShort, setWidth_setWidth_arg (by decide)]
  | setSrcShort a => rw [encode, decode_mkCW_setSrcShort, setWidth_setWidth_arg (by decide)]
  | setMhopShort hops a => rw [encode, decode_mkCW_setMhopShort, setWidth_setWidth_arg (by decide)]
  | discard => exact decode_mkCW_discard ..
  | newTx => exact decode_mkCW_newTx ..
  | parse => exact decode_mkCW_parse ..
  | setDstLong a => exact decode_mkCW_setDstLong ..
  | setSrcLong a => exact decode_mkCW_setSrcLong ..
  | setPayldSz len => exact decode_mkCW_setPayldSz ..
  | setMhopLong hops a => exact decode_mkCW_setMhopLong ..
  | setMic => exact decode_mkCW_setMic ..
  | unassignedF => exact decode_mkCW_unassignedF ..
  | bufRd addr => exact decode_mkBW_read ..
  | bufWr addr b => exact decode_mkBW_write ..
  | regRd idx => rfl

/-- Settles O2: the equations of the sixteen codes; two of them take a data string of exactly `len` bytes. -/
theorem commandWordIsReadByItsOpcode : Obligations.CommandWordIsReadByItsOpcode := by
  intro hops len arg data
  have hnewRx (h : data.length = len.toNat) : decode (.command (mkCW 0x2 hops len arg) data) = .ok (.newRx data) := by
    rw [decode_mkCW_newRx, withData_of_length _ h]
  have hsetPayld (h : data.length = len.toNat) :
      decode (.command (mkCW 0xA hops len arg) data) = .ok (.setPayld data) := by
    rw [decode_mkCW_setPayld, withData_of_length _ h]
  exact ⟨decode_mkCW_discard .., decode_mkCW_newTx .., hnewRx, decode_mkCW_parse .., decode_mkCW_setProtocol ..,
    decode_mkCW_setNetId .., decode_mkCW_setDstShort .., decode_mkCW_setDstLong .., decode_mkCW_setSrcShort ..,
    decode_mkCW_setSrcLong .., hsetPayld, decode_mkCW_setPayldSz .., decode_mkCW_setMhopShort ..,
    decode_mkCW_setMhopLong .., decode_mkCW_setMic .., decode_mkCW_unassignedF ..⟩

/-- Settles O3. -/
theorem bufferAndRegisterWordsAreRead : Obligations.BufferAndRegisterWordsAreRead :=
  fun addr b _ => ⟨decode_mkBW_read addr b, decode_mkBW_write addr b, rfl⟩

/-- Settles O4: eight closed words, evaluated. -/
theorem writtenOutWordsDecode : Obligations.WrittenOutWordsDecode := by
  unfold Obligations.WrittenOutWordsDecode
  decide

/-- Settles O5: the two codes that take a data string (log 8). -/
theorem dataStringOfAnotherLengthIsRefused : Obligations.DataStringOfAnotherLengthIsRefused := by
  intro hops len arg data h
  rw [decode_mkCW_newRx, decode_mkCW_setPayld]
  exact ⟨withData_of_length_ne _ h, withData_of_length_ne _ h⟩

end Sys2Proof

namespace Sys2Proof.Machine

/-- Settles O25: the arm is the one way of failing, with the label of R113. -/
theorem unassignedOpcodeAlwaysFails : Obligations.UnassignedOpcodeAlwaysFails := fun _ => rfl

/-! ### The fields of a frame as byte strings (30_encoding.md R91 to R99) -/

/-- The addressing fields of a frame, between Frame-Control and the IE region. -/
def Frame.addressing (x : Frame) : List Byte :=
  leBytes (nsz (fctlN x.fctl)) (x.netid.setWidth 64) ++ leBytes (aszD (fctlDam x.fctl)) x.dst
    ++ leBytes (aszD (fctlSam x.fctl)) x.src

/-- The IE region of a frame, empty when absent. -/
def Frame.ieRegion (x : Frame) : List Byte := if fctlI x.fctl then x.ieh :: x.ieBody else []

/-- The multi-hop trailer of a frame, empty when absent. -/
def Frame.trailer (x : Frame) : List Byte :=
  if fctlMam x.fctl = 0 then [] else x.hops :: leBytes (aszD (fctlMam x.fctl)) x.txaddr

theorem Frame.bytes_eq (x : Frame) :
    x.bytes = [x.pid, x.fctl] ++ (x.addressing ++ (x.ieRegion ++ (x.payload ++ (x.trailer ++ x.mic)))) := by
  simp only [Frame.bytes, Frame.addressing, Frame.ieRegion, Frame.trailer, List.append_assoc]

theorem Frame.addressing_length (x : Frame) : 2 + x.addressing.length = ieOffset x.fctl := by
  simp only [Frame.addressing, List.length_append, leBytes_length, ieOffset]
  omega

theorem Frame.trailer_of_absent {x : Frame} (h : fctlMam x.fctl = 0) : x.trailer = [] := if_pos h

theorem Frame.trailer_of_present {x : Frame} (h : fctlMam x.fctl ≠ 0) :
    x.trailer = x.hops :: leBytes (aszD (fctlMam x.fctl)) x.txaddr := if_neg h

theorem Frame.ieRegion_of_absent {x : Frame} (h : fctlI x.fctl = false) : x.ieRegion = [] := by
  simp [Frame.ieRegion, h]

theorem Frame.ieRegion_of_present {x : Frame} (h : fctlI x.fctl = true) : x.ieRegion = x.ieh :: x.ieBody := by
  simp [Frame.ieRegion, h]

theorem Frame.trailer_length {x : Frame} (h : fctlMam x.fctl ≠ 3) : x.trailer.length = mszD (fctlMam x.fctl) := by
  by_cases h0 : fctlMam x.fctl = 0
  · rw [Frame.trailer_of_absent h0, h0]
    rfl
  · rw [Frame.trailer_of_present h0, mszD_eq h h0, List.length_cons, leBytes_length, Nat.add_comm]

/-- A recognized address mode's value fits the bytes the mode announces (10_state.md R30). -/
theorem addressFits_lt {m : BitVec 2} {v : Long} (hm : m ≠ 3) (h : addressFits m v) : v.toNat < 256 ^ aszD m := by
  obtain ⟨habsent, hshort⟩ := h
  have hcodes : ∀ m : BitVec 2, m ≠ 3 → m = 0 ∨ m = 1 ∨ m = 2 := by decide
  rcases hcodes m hm with rfl | rfl | rfl
  · rw [habsent rfl]; decide
  · exact hshort rfl
  · exact v.isLt

/-! ### A byte string at a frame offset -/

/-- The byte string stands at the frame offset. -/
def State.Holds (s : State) (o : Nat) (bs : List Byte) : Prop := s.frBytes o bs.length = bs

theorem State.holds_nil (s : State) (o : Nat) : s.Holds o [] := rfl

theorem State.holds_append {s : State} {o : Nat} {as bs : List Byte} :
    s.Holds o (as ++ bs) ↔ s.Holds o as ∧ s.Holds (o + as.length) bs := by
  rw [State.Holds, List.length_append, State.frBytes_add]
  exact List.append_eq_append_iff_of_size_eq_left (s.frBytes_length ..)

theorem State.holds_cons {s : State} {o : Nat} {b : Byte} {bs : List Byte} :
    s.Holds o (b :: bs) ↔ s.frByte o = b ∧ s.Holds (o + 1) bs := by
  rw [← List.singleton_append, State.holds_append]
  simp [State.Holds, State.frBytes]

/-- What a state reads at an offset stands there. -/
theorem State.holds_frBytes (s : State) (o n : Nat) : s.Holds o (s.frBytes o n) := by
  rw [State.Holds, State.frBytes_length]

/-- A state with the same bytes at the offsets of a byte string holds it too. -/
theorem State.Holds.congr {s t : State} {o : Nat} {bs : List Byte} (h : s.Holds o bs)
    (hbytes : ∀ i, i < bs.length → t.frByte (o + i) = s.frByte (o + i)) : t.Holds o bs := by
  refine Eq.trans ?_ h
  exact List.map_congr_left fun i hi => hbytes i (List.mem_range.mp hi)

/-- The frame is a byte string when it has its length and holds it from offset 0 on (20_memory.md R76). -/
theorem State.frameBytes_eq_iff {s : State} {bs : List Byte} :
    s.frameBytes = bs ↔ s.fsz.toNat = bs.length ∧ s.Holds 0 bs := by
  constructor
  · rintro rfl
    exact ⟨(s.frBytes_length ..).symm, s.holds_frBytes ..⟩
  · rintro ⟨hlen, h⟩
    rw [State.frameBytes, hlen, h]

/-- A frame's bytes stand in a buffer when each of its parts stands at its offset (30_encoding.md R91). -/
theorem State.holds_frame_bytes {s : State} {x : Frame} :
    s.Holds 0 x.bytes ↔
      s.Holds 0 [x.pid, x.fctl] ∧ s.Holds 2 x.addressing ∧ s.Holds (ieOffset x.fctl) x.ieRegion
      ∧ s.Holds (ieOffset x.fctl + x.ieRegion.length) x.payload
      ∧ s.Holds (ieOffset x.fctl + x.ieRegion.length + x.payload.length) x.trailer
      ∧ s.Holds (ieOffset x.fctl + x.ieRegion.length + x.payload.length + x.trailer.length) x.mic := by
  simp only [Frame.bytes_eq, State.holds_append, ← x.addressing_length]
  rfl

/-- A value whose bytes stand at an offset is read there. -/
theorem State.Holds.frRead {s : State} {o n : Nat} {v : Long} (h : s.Holds o (leBytes n v)) (hv : v.toNat < 256 ^ n) :
    s.frRead o n = v := by
  rw [State.Holds, leBytes_length] at h
  rw [State.frRead, h, leValue_leBytes, Nat.mod_eq_of_lt hv, BitVec.ofNat_toNat, BitVec.setWidth_eq]

/-! ### Lengths of the parts of a legal frame (30_encoding.md R101) -/

section
variable {p : Byte} {x : Frame}

theorem Frame.ok.ieRegion_length (h : x.ok p) : x.ieRegion.length = ieRegionSize x.fctl x.ieh := by
  obtain ⟨-, -, -, -, -, -, -, hie, -, -⟩ := h
  cases hI : fctlI x.fctl with
  | false => simp [Frame.ieRegion, ieRegionSize, hI]
  | true =>
    obtain ⟨-, hbody⟩ := hie hI
    simp [Frame.ieRegion, ieRegionSize, hI, hbody]

/-- The IE region after its header byte is the body, whether it is present or not. -/
theorem Frame.ok.ieRegion_drop (h : x.ok p) : x.ieRegion.drop 1 = x.ieBody := by
  obtain ⟨-, -, -, -, -, -, -, -, hno, -⟩ := h
  cases hI : fctlI x.fctl with
  | false =>
    obtain ⟨-, hbody⟩ := hno hI
    rw [Frame.ieRegion_of_absent hI, hbody]
    rfl
  | true =>
    rw [Frame.ieRegion_of_present hI]
    rfl

theorem Frame.ok.trailer_length (h : x.ok p) : x.trailer.length = mszD (fctlMam x.fctl) := by
  obtain ⟨-, hrec, -⟩ := h
  obtain ⟨-, -, hmam⟩ := recognizedFctl_iff.mp hrec
  exact Frame.trailer_length hmam

theorem Frame.ok.mic_length (h : x.ok p) : x.mic.length = micFieldSize x.fctl x.ieh := by
  obtain ⟨-, -, -, -, -, -, -, -, -, hmic⟩ := h
  exact hmic

/-- The length law (R101): the shortest frame with these signalling bytes, and the payload. -/
theorem Frame.ok.bytes_length (h : x.ok p) : x.bytes.length = minLength x.fctl x.ieh + x.payload.length := by
  have haddr := x.addressing_length
  have hie := h.ieRegion_length
  have htrailer := h.trailer_length
  have hmic := h.mic_length
  simp only [Frame.bytes_eq, List.length_append, List.length_cons, List.length_nil, minLength]
  omega

end

/-! ### `PARSE` accepts what R181 to R185 ask for -/

theorem parsePid_eq {s : State} {len : Nat} (hlen : 1 ≤ len) (hpid : s.frByte 0 = s.cfg.pidCsma) :
    parsePid s len = .ok (s.frByte 0) := by
  simp [parsePid, hpid, Nat.not_lt.mpr hlen]

theorem parseFctl_eq {s : State} {len : Nat} (hlen : 2 ≤ len) (hrec : recognizedFctl (s.frByte 1) = true) :
    parseFctl s len = .ok { fctl := s.frByte 1, dstSz := aszD (fctlDam (s.frByte 1)),
                            srcSz := aszD (fctlSam (s.frByte 1)), mhopSz := mszD (fctlMam (s.frByte 1)) } := by
  obtain ⟨hdam, hsam, hmam⟩ := recognizedFctl_iff.mp hrec
  simp [parseFctl, Nat.not_lt.mpr hlen, asz_of_ne hdam, asz_of_ne hsam, msz_of_ne hmam]

theorem walkField_eq {s : State} {len c n : Nat} (h : c + n ≤ len) :
    walkField s len c n = .ok (s.frRead c n, c + n) := by
  unfold walkField
  split
  · subst n; rfl
  · rw [if_neg (Nat.not_lt.mpr h)]

/-- The IE step succeeds when a region that is announced has its header byte and its size inside the frame, and
recognized codes (R184). -/
theorem parseIe_eq {s : State} {len c : Nat} {f : Byte}
    (hrec : fctlI f = true → c < len ∧ recognizedIeh (s.frByte c) = true)
    (hsz : c + ieRegionSize f (s.frByte c) ≤ len) :
    parseIe s len c (fctlI f) = .ok { ieh := if fctlI f then s.frByte c else 0,
                                      ieSz := ieRegionSize f (s.frByte c), micSz := micFieldSize f (s.frByte c) } := by
  cases hI : fctlI f with
  | false => simp [parseIe, ieRegionSize, micFieldSize, hI]
  | true =>
    obtain ⟨hlt, hcodes⟩ := hrec hI
    obtain ⟨hisc, hmsc⟩ := of_decide_eq_true hcodes
    simp only [ieRegionSize, hI, if_true] at hsz
    simp [parseIe, ieRegionSize, micFieldSize, hI, Nat.not_lt.mpr (Nat.succ_le_of_lt hlt), Nat.not_lt.mpr hsz,
      iesz_of_ne hisc, micsz_of_ne hmsc]

/-- A structurally valid frame passes every step of `PARSE` (43_parser.md R180). -/
theorem parseFrame_of_accepted {s : State} (h : accepted s) : ∃ d, parseFrame s = .ok d := by
  obtain ⟨hlen, hpid, hrec, hie, hmin⟩ := h
  have hregion := parseIe_eq (len := s.fsz.toNat) hie (by unfold minLength State.iehByte at hmin; omega)
  simp only [minLength, State.iehByte, ieOffset] at hregion hmin
  cases h : parseFrame s with
  | ok d => exact ⟨d, rfl⟩
  | error c =>
    simp (disch := omega) only [parseFrame, bind, Except.bind, parsePid_eq (Nat.le_of_succ_le hlen) hpid,
      parseFctl_eq hlen hrec, walkField_eq, hregion, if_neg, reduceCtorEq] at h

/-- In RX mode, the frame inside the buffer, `PARSE` commits what its steps answer (R180). -/
theorem execParse_of_ok {s : State} {d : Desc} (hmode : s.mode = .rx) (hfit : s.headroom + s.fsz.toNat ≤ s.cap)
    (h : parseFrame s = .ok d) : execParse s = .next (((s.setDesc d).setValid true).respond okResponse) := by
  simp [execParse, hmode, Nat.not_lt.mpr hfit, h, complete]

/-- The values a parse commits are read at the offsets it commits (43_parser.md R181 to R185). -/
structure ReadsFields (s : State) (d : Desc) : Prop where
  pid : d.pid = s.frByte 0
  fctl : d.fctl = s.frByte 1
  netid : d.netid = (s.frRead d.netidOff.toNat (nsz (fctlN d.fctl))).setWidth 16
  dst : d.dst = s.frRead d.dstOff.toNat (aszD (fctlDam d.fctl))
  src : d.src = s.frRead d.srcOff.toNat (aszD (fctlSam d.fctl))
  ieh : fctlI d.fctl = true → d.ieh = s.frByte d.ieOff.toNat
  hops : fctlMam d.fctl ≠ 0 → d.hops = s.frByte d.mhopOff.toNat
  txaddr : fctlMam d.fctl ≠ 0 → d.txaddr = s.frRead (d.mhopOff.toNat + 1) (aszD (fctlMam d.fctl))

theorem parseFrame_reads {s : State} {d : Desc} (h : parseFrame s = .ok d) : ReadsFields s d := by
  obtain ⟨f, e, netid, dst, src, c1, c2, c3, hpid, hfctl, hnet, hdst, hsrc, hie, hle, o, ho, hd⟩ := parseFrame_ok h
  obtain ⟨-, -, hpid⟩ := parsePid_ok hpid
  obtain ⟨-, hf, hdam, hsam, hmam⟩ := parseFctl_ok hfctl
  obtain ⟨-, hdsz⟩ := asz_some hdam
  obtain ⟨-, hssz⟩ := asz_some hsam
  obtain ⟨hmam, hmsz⟩ := msz_some hmam
  obtain ⟨hnet, hc1⟩ := Prod.mk.inj (walkField_ok hnet).1
  obtain ⟨hdst, hc2⟩ := Prod.mk.inj (walkField_ok hdst).1
  obtain ⟨hsrc, hc3⟩ := Prod.mk.inj (walkField_ok hsrc).1
  have hfsz := s.fsz.isLt
  have hstored {n : Nat} (hn : n ≤ s.fsz.toNat) : (BitVec.ofNat 16 n).toNat = n :=
    Nat.mod_eq_of_lt (Nat.lt_of_le_of_lt hn hfsz)
  have hmhop (h0 : fctlMam f.fctl ≠ 0) : f.mhopSz = aszD (fctlMam f.fctl) + 1 := by
    rw [hmsz, mszD_eq hmam h0, Nat.add_comm]
  rw [hd]
  constructor
  case pid => exact hpid
  case fctl => exact hf
  case netid => exact congrArg (BitVec.setWidth 16) hnet
  case dst => simp only [hstored (show c1 ≤ s.fsz.toNat by omega), hdst, hdsz]
  case src => simp only [hstored (show c2 ≤ s.fsz.toNat by omega), hsrc, hssz]
  case ieh =>
    intro hI
    simp only at hI
    rw [hI] at hie
    obtain ⟨-, hieh, -⟩ := parseIe_ok hie
    simp only [hstored (show c3 ≤ s.fsz.toNat by omega), hieh]
  case hops =>
    intro h0
    simp only [hstored (show o ≤ s.fsz.toNat by omega), readMhop, hmhop h0, Nat.succ_ne_zero, if_false]
  case txaddr =>
    intro h0
    simp only [hstored (show o ≤ s.fsz.toNat by omega), readMhop, hmhop h0, Nat.succ_ne_zero, if_false,
      Nat.add_sub_cancel]

/-! ### A frame of the wire format is taken apart into its fields -/

/-- Nothing of the shortest length but the IE region depends on the IE header byte. -/
theorem minLength_congr {f h h' : Byte} (hh : fctlI f = true → h = h') : minLength f h = minLength f h' := by
  cases hI : fctlI f with
  | false => simp [minLength, ieRegionSize, micFieldSize, hI]
  | true => rw [hh hI]

section
variable {s : State} {x : Frame}

theorem Frame.ok.netid_lt {p : Byte} (h : x.ok p) : (x.netid.setWidth 64).toNat < 256 ^ nsz (fctlN x.fctl) := by
  obtain ⟨-, -, hnet, -⟩ := h
  cases hN : fctlN x.fctl with
  | false => rw [hnet hN]; decide
  | true =>
    rw [BitVec.toNat_setWidth_of_le (by decide)]
    exact x.netid.isLt

theorem State.Holds.pid_fctl (h : s.Holds 0 [x.pid, x.fctl]) : s.frByte 0 = x.pid ∧ s.frByte 1 = x.fctl := by
  obtain ⟨hpid, h⟩ := State.holds_cons.mp h
  obtain ⟨hfctl, -⟩ := State.holds_cons.mp h
  exact ⟨hpid, hfctl⟩

/-- The header byte of a laid-out IE region. -/
theorem State.Holds.ieh {o : Nat} (h : s.Holds o x.ieRegion) (hI : fctlI x.fctl = true) : s.frByte o = x.ieh := by
  rw [Frame.ieRegion_of_present hI] at h
  obtain ⟨hieh, -⟩ := State.holds_cons.mp h
  exact hieh

/-- A legal frame laid out in order is one that `PARSE` accepts (43_parser.md R181 to R185). -/
theorem accepted_of_frameBytes (hok : x.ok s.cfg.pidCsma) (h : s.frameBytes = x.bytes) : accepted s := by
  obtain ⟨hlen, hbytes⟩ := State.frameBytes_eq_iff.mp h
  obtain ⟨hhead, -, hregion, -⟩ := State.holds_frame_bytes.mp hbytes
  obtain ⟨hpid, hfctl⟩ := hhead.pid_fctl
  obtain ⟨hcsma, hrec, -, -, -, -, -, hie, -⟩ := id hok
  have hieh (hI : fctlI x.fctl = true) : s.iehByte = x.ieh := by
    rw [State.iehByte, hfctl]
    exact hregion.ieh hI
  rw [hok.bytes_length] at hlen
  rw [accepted, hfctl, minLength_congr hieh]
  refine ⟨?_, hpid.trans hcsma, hrec, fun hI => ⟨?_, hieh hI ▸ (hie hI).1⟩, ?_⟩
  · unfold minLength ieOffset at hlen; omega
  · have hpos : 0 < ieRegionSize x.fctl x.ieh := by
      rw [← hok.ieRegion_length, Frame.ieRegion_of_present hI]
      exact Nat.succ_pos _
    unfold minLength at hlen; omega
  · omega

/-- The IE offset of consistent descriptors is the one Frame-Control gives (30_encoding.md R97). -/
theorem ieOff_of_consistent {d : Desc} {z : Half} (h : Consistent d z) : d.ieOff.toNat = ieOffset d.fctl := by
  obtain ⟨-, hnet, hdst, hsrc, hie, -⟩ := h
  unfold ieOffset
  omega

/-- Descriptors with a legal frame's signalling bytes have the sizes of its parts, and count its bytes but for the
payload (30_encoding.md R101). -/
theorem sizes_of_describes {d : Desc} {z : Half} {p : Byte} (h : Describes d z) (hok : x.ok p)
    (hfctl : d.fctl = x.fctl) (hieh : d.ieh = x.ieh) :
    d.ieSz.toNat = x.ieRegion.length ∧ d.micSz.toNat = x.mic.length
      ∧ d.micOff.toNat = d.mhopOff.toNat + x.trailer.length
      ∧ z.toNat + x.payload.length = x.bytes.length + d.payldSz.toNat := by
  obtain ⟨hoff, ⟨hieSz, hmicSz, -⟩, -⟩ := h
  have hieO := ieOff_of_consistent hoff
  obtain ⟨-, -, -, -, -, hpayO, hmhopO, hmicO, hz⟩ := hoff
  rw [hfctl] at hieO hieSz hmicSz hmicO
  rw [hieh] at hieSz hmicSz
  rw [hok.bytes_length, minLength, hok.ieRegion_length, hok.mic_length, hok.trailer_length]
  omega

/-- A legal frame's bytes stand in a buffer when each of its parts stands at the offset of its descriptor. -/
theorem State.holds_frame_bytes_at {d : Desc} {z : Half} (hoff : Consistent d z) (hfctl : d.fctl = x.fctl)
    (hie : d.ieSz.toNat = x.ieRegion.length) (hpayld : d.payldSz.toNat = x.payload.length)
    (hmic : d.micOff.toNat = d.mhopOff.toNat + x.trailer.length) :
    s.Holds 0 x.bytes ↔
      s.Holds 0 [x.pid, x.fctl] ∧ s.Holds 2 x.addressing ∧ s.Holds d.ieOff.toNat x.ieRegion
      ∧ s.Holds d.payldOff.toNat x.payload ∧ s.Holds d.mhopOff.toNat x.trailer ∧ s.Holds d.micOff.toNat x.mic := by
  have hieO := ieOff_of_consistent hoff
  obtain ⟨-, -, -, -, -, hpayO, hmhopO, -⟩ := hoff
  rw [State.holds_frame_bytes, ← hfctl, ← hieO, ← hie, ← hpayO, ← hpayld, ← hmhopO, ← hmic]

/-- The addressing values read from a frame that is laid out in order are the frame's. -/
theorem ReadsFields.addressing {d : Desc} {p : Byte} (h : ReadsFields s d) (hoff : Consistent d s.fsz) (hok : x.ok p)
    (hfctl : d.fctl = x.fctl) (hheld : s.Holds 2 x.addressing) :
    d.netid = x.netid ∧ d.dst = x.dst ∧ d.src = x.src := by
  obtain ⟨-, hrec, -, hdst, hsrc, -⟩ := id hok
  obtain ⟨hdam, hsam, -⟩ := recognizedFctl_iff.mp hrec
  obtain ⟨-, hnetO, hdstO, hsrcO, -⟩ := hoff
  obtain ⟨hheld, hsrcHeld⟩ := State.holds_append.mp hheld
  obtain ⟨hnetHeld, hdstHeld⟩ := State.holds_append.mp hheld
  rw [List.length_append, leBytes_length, leBytes_length, ← Nat.add_assoc] at hsrcHeld
  rw [leBytes_length] at hdstHeld
  rw [h.netid, h.dst, h.src, hsrcO, hdstO, hnetO, hfctl, hnetHeld.frRead hok.netid_lt,
    hdstHeld.frRead (addressFits_lt hdam hdst), hsrcHeld.frRead (addressFits_lt hsam hsrc),
    setWidth_setWidth_arg (by decide)]
  exact ⟨rfl, rfl, rfl⟩

/-- The trailer values read from a frame that is laid out in order are the frame's. -/
theorem ReadsFields.trailer {d : Desc} {p : Byte} (h : ReadsFields s d) (hvals : ValuesFit d) (hok : x.ok p)
    (hfctl : d.fctl = x.fctl) (hheld : s.Holds d.mhopOff.toNat x.trailer) : d.hops = x.hops ∧ d.txaddr = x.txaddr := by
  obtain ⟨-, hrec, -, -, -, htx, hhops, -⟩ := hok
  obtain ⟨-, -, -, ⟨hdtx, -⟩, hdhops⟩ := hvals
  obtain ⟨-, -, hmam⟩ := recognizedFctl_iff.mp hrec
  obtain ⟨-, -, -, -, -, -, hrdHops, hrdTx⟩ := h
  rw [hfctl] at hdtx hdhops hrdHops hrdTx
  by_cases h0 : fctlMam x.fctl = 0
  · exact ⟨(hdhops h0).trans (hhops h0).symm, (hdtx h0).trans (htx.1 h0).symm⟩
  · rw [Frame.trailer_of_present h0] at hheld
    obtain ⟨hhopsHeld, htxHeld⟩ := State.holds_cons.mp hheld
    exact ⟨(hrdHops h0).trans hhopsHeld, (hrdTx h0).trans (htxHeld.frRead (addressFits_lt hmam htx))⟩

/-- The IE header read from a frame that is laid out in order is the frame's. -/
theorem ReadsFields.ieHeader {d : Desc} {p : Byte} (h : ReadsFields s d) (hdesc : Describes d s.fsz) (hok : x.ok p)
    (hfctl : d.fctl = x.fctl) (hheld : s.Holds (ieOffset x.fctl) x.ieRegion) : d.ieh = x.ieh := by
  obtain ⟨-, -, -, -, -, -, -, -, habsent, -⟩ := hok
  obtain ⟨hoff, ⟨-, -, -, hdabsent⟩, -⟩ := hdesc
  rw [← hfctl, ← ieOff_of_consistent hoff] at hheld
  cases hI : fctlI x.fctl with
  | false =>
    obtain ⟨hieh, -⟩ := habsent hI
    rw [hdabsent (hfctl ▸ hI), hieh]
  | true => rw [h.ieh (hfctl ▸ hI), hheld.ieh hI]

/-- The descriptors of a parsed frame that is laid out in order stand for exactly its fields. -/
theorem frame_eq_of_parseFrame {d : Desc} (hok : x.ok s.cfg.pidCsma) (h : s.frameBytes = x.bytes)
    (hparse : parseFrame s = .ok d) : (s.setDesc d).frame = x := by
  obtain ⟨hlen, hbytes⟩ := State.frameBytes_eq_iff.mp h
  obtain ⟨hhead, haddr, hregion, -⟩ := State.holds_frame_bytes.mp hbytes
  obtain ⟨hpid, hfctl⟩ := hhead.pid_fctl
  have hreads := parseFrame_reads hparse
  obtain ⟨hdesc, -⟩ := parseFrame_describes hparse
  obtain ⟨hoff, -, hvals⟩ := id hdesc
  have hfctl : d.fctl = x.fctl := hreads.fctl.trans hfctl
  have hieh := hreads.ieHeader hdesc hok hfctl hregion
  obtain ⟨hieSz, hmicSz, hmicO, hcount⟩ := sizes_of_describes hdesc hok hfctl hieh
  have hpaySz : d.payldSz.toNat = x.payload.length := by omega
  obtain ⟨-, -, hregion, hpayload, htrailer, hmic⟩ :=
    (State.holds_frame_bytes_at hoff hfctl hieSz hpaySz hmicO).mp hbytes
  obtain ⟨hnet, hdst, hsrc⟩ := hreads.addressing hoff hok hfctl haddr
  obtain ⟨hhops, htx⟩ := hreads.trailer hvals hok hfctl htrailer
  rw [State.Holds, ← hieSz] at hregion
  rw [State.Holds, ← hpaySz] at hpayload
  rw [State.Holds, ← hmicSz] at hmic
  have hbody : (s.setDesc d).ieBytes.drop 1 = x.ieBody := (congrArg (List.drop 1) hregion).trans hok.ieRegion_drop
  have hpayldBytes : (s.setDesc d).payloadBytes = x.payload := hpayload
  have hmicBytes : (s.setDesc d).micBytes = x.mic := hmic
  simp only [State.frame, State.setDesc_desc, hreads.pid.trans hpid, hfctl, hnet, hdst, hsrc, hieh, hbody,
    hpayldBytes, hhops, htx, hmicBytes]

end

/-- Settles O32: the frame is accepted, and what is read at the offsets committed is what was laid out there. -/
theorem parseRecoversEveryLaidOutFrame : Obligations.ParseRecoversEveryLaidOutFrame := by
  intro s x hmode hfit hok h
  obtain ⟨d, hparse⟩ := parseFrame_of_accepted (accepted_of_frameBytes hok h)
  obtain ⟨hdesc, -⟩ := parseFrame_describes hparse
  exact ⟨_, execParse_of_ok hmode hfit hparse, rfl, rfl, hdesc, frame_eq_of_parseFrame hok h hparse⟩

/-- An absent field has no bytes. -/
@[simp] theorem leBytes_zero (v : Long) : leBytes 0 v = [] := rfl

/-! ### What stands in the buffer after a builder's writes (41_builder_header.md R140) -/

section
variable {s : State} {o : Nat} {bs : List Byte}

/-- A byte string that ends before the cursor stands there still after a field is appended. -/
theorem State.Holds.appendField (h : s.Holds o bs) (hend : o + bs.length ≤ s.fsz.toNat) (d : Desc) (new : List Byte) :
    (s.appendField d new).Holds o bs := by
  refine h.congr fun i hi => ?_
  rw [State.frByte, State.appendField_headroom, State.appendField_bufByte, if_neg (by omega)]
  rfl

/-- The field appended stands at the old cursor. -/
theorem State.appendField_holds (s : State) (d : Desc) (new : List Byte) :
    (s.appendField d new).Holds s.fsz.toNat new := s.frWrite_frBytes _ _

/-- A byte string after Frame-Control stands there still after `OrFctl`. -/
theorem State.Holds.orFctl (h : s.Holds o bs) (ho : 2 ≤ o) (mask : Byte) : (s.orFctl mask).Holds o bs := by
  refine h.congr fun i hi => ?_
  rw [State.frByte, State.orFctl_headroom, State.orFctl_bufByte, if_neg (by omega)]
  rfl

/-- `OrFctl` writes the Frame-Control byte and leaves the Protocol-Id. -/
theorem State.Holds.header_orFctl {p f : Byte} (h : s.Holds 0 [p, f]) (mask : Byte) :
    (s.orFctl mask).Holds 0 [p, s.desc.fctl ||| mask] := by
  obtain ⟨hpid, -⟩ := State.holds_cons.mp h
  rw [State.holds_cons, State.holds_cons]
  refine ⟨?_, ?_, State.holds_nil _ _⟩
  · rw [State.frByte, State.orFctl_headroom, State.orFctl_bufByte, if_neg (by omega)]
    exact hpid
  · rw [State.frByte, State.orFctl_headroom, State.orFctl_bufByte, if_pos rfl]

@[simp] theorem State.holds_endField {k : Stage} : (s.endField k).Holds o bs ↔ s.Holds o bs := Iff.rfl

/-- A byte string stands there still after one byte is stored outside it. -/
theorem State.Holds.store (h : s.Holds o bs) {a : Nat} {b : Byte}
    (ha : a < s.headroom + o ∨ s.headroom + o + bs.length ≤ a) : (s.store a [b]).Holds o bs := by
  refine h.congr fun i hi => ?_
  rw [State.frByte, State.store_headroom, State.store_bufByte, if_neg (by simp only [List.length_singleton]; omega)]
  rfl

end

/-! ### The builder lays out the fields its descriptors stand for (30_encoding.md R91, R103) -/

/-- The buffer holds the parts of the frame but for the payload, where the descriptors say; a builder has no IE region
and no integrity field. -/
structure LaidOut (s : State) : Prop where
  header : s.Holds 0 [s.desc.pid, s.desc.fctl]
  addressing : s.Holds 2 s.frame.addressing
  trailer : s.Holds s.desc.mhopOff.toNat s.frame.trailer

/-- In a begun frame the header ends where the payload begins, and before the cursor. -/
theorem Built.header_le {k : Stage} {s : State} (h : Built k s.desc s.fsz) :
    2 + s.frame.addressing.length = s.desc.ieOff.toNat ∧ s.desc.ieOff.toNat ≤ s.fsz.toNat := by
  obtain ⟨hdesc, -⟩ := built_iff.mp h
  have hoff := h.offsets
  exact ⟨s.frame.addressing_length.trans (ieOff_of_consistent hdesc.1).symm, by omega⟩

/-- Before the payload the cursor stands at the end of the header. -/
theorem Built.fsz_eq {k : Stage} {s : State} (h : Built k s.desc s.fsz) (hk : stageCode k < 5) :
    s.fsz.toNat = 2 + s.frame.addressing.length := by
  obtain ⟨hhead, -⟩ := h.header_le
  obtain ⟨-, -, hoff, -, -, -, -, hP, hM⟩ := h
  rw [BuiltOffsets, hP hk, hM (hk.trans (by decide))] at hoff
  simp only [Offsets, BitVec.ofNat_eq_ofNat, BitVec.toNat_ofNat, mszD_zero] at hoff
  omega

/-- A frame whose Frame-Control byte is 0 has its two header bytes only. -/
theorem laidOut_of_fctl_zero {s : State} (h : s.Holds 0 [s.desc.pid, s.desc.fctl]) (h0 : s.desc.fctl = 0) :
    LaidOut s := by
  have haddr : s.frame.addressing = [] := by
    have hlen : 2 + s.frame.addressing.length = ieOffset 0 := h0 ▸ s.frame.addressing_length
    exact List.eq_nil_of_length_eq_zero (Nat.add_left_cancel hlen)
  have htrailer : s.frame.trailer = [] := Frame.trailer_of_absent (by rw [State.frame, h0]; rfl)
  exact ⟨h, haddr ▸ s.holds_nil 2, htrailer ▸ s.holds_nil _⟩

section
variable {s : State} {k : Stage} {d : Desc} {new : List Byte} {mask : Byte}

/-- The header bytes after a field is appended and announced. -/
theorem LaidOut.header_appendField_orFctl (h : LaidOut s) (hfsz : 2 ≤ s.fsz.toNat) :
    ((s.appendField d new).orFctl mask).Holds 0 [s.desc.pid, d.fctl ||| mask] :=
  (h.header.appendField hfsz d new).header_orFctl mask

/-- A field appended to the header is laid out after the fields before it. -/
theorem LaidOut.appendAddressing (h : LaidOut s) (hfsz : s.fsz.toNat = 2 + s.frame.addressing.length)
    (hpid : d.pid = s.desc.pid)
    (haddr : (((s.appendField d new).orFctl mask).endField k).frame.addressing = s.frame.addressing ++ new)
    (hmam : fctlMam (d.fctl ||| mask) = 0) : LaidOut (((s.appendField d new).orFctl mask).endField k) where
  header := by
    have hheader := h.header_appendField_orFctl (d := d) (new := new) (mask := mask) (by omega)
    simpa [hpid] using hheader
  addressing := by
    have hold := (h.addressing.appendField hfsz.ge d new).orFctl le_rfl mask
    have hnew := (s.appendField_holds d new).orFctl (by omega) mask
    rw [haddr]
    exact State.holds_append.mpr ⟨hold, hfsz ▸ hnew⟩
  trailer := by
    rw [Frame.trailer_of_absent]
    · rfl
    · simpa [State.frame] using hmam

end

/-- A setter lays out its field (41_builder_header.md R142 to R146, 42_builder_payload_trailer.md R161 to R165). -/
theorem FieldSet.laidOut {s t : State} (hbuilt : Built s.stage s.desc s.fsz) (hbegun : 1 ≤ stageCode s.stage)
    (hlaid : LaidOut s) (h : FieldSet s t) : LaidOut t := by
  obtain ⟨hhead, hle⟩ := hbuilt.header_le
  obtain ⟨hN, hD, hS, hP, hM⟩ := hbuilt.after
  cases h with
  | protocol id hstage hroom => exact absurd (hbegun.trans hstage.2) (by decide)
  | netId id hstage hroom =>
    have hk := Nat.lt_succ_of_le hstage.2
    refine hlaid.appendAddressing (hbuilt.fsz_eq (by omega)) rfl ?_ ?_
    · simp [Frame.addressing, State.frame, hN hk, hD (by omega), hS (by omega)]
    · simp [hM (by omega)]
  | dst ha hstage hroom =>
    have hk := Nat.lt_succ_of_le hstage.2
    refine hlaid.appendAddressing (hbuilt.fsz_eq (by omega)) rfl ?_ ?_
    · simp [Frame.addressing, State.frame, hD hk, hS (by omega), ha.size]
    · simp [hM (by omega)]
  | src ha hstage hroom =>
    have hk := Nat.lt_succ_of_le hstage.2
    refine hlaid.appendAddressing (hbuilt.fsz_eq (by omega)) rfl ?_ ?_
    · simp [Frame.addressing, State.frame, hS hk, ha.size]
    · simp [hM (by omega)]
  | payld data hstage hroom =>
    have hmam : fctlMam s.desc.fctl = 0 := hM ((Nat.lt_succ_of_le hstage.2).trans (by decide))
    refine ⟨?_, ?_, ?_⟩
    · simpa using hlaid.header.appendField hbuilt.two_le _ data
    · simpa [Frame.addressing, State.frame] using hlaid.addressing.appendField (hhead.trans_le hle) _ data
    · rw [Frame.trailer_of_absent (by simpa [State.frame] using hmam)]
      rfl
  | payldSz len hstage hgrow hroom =>
    have hmam : fctlMam s.desc.fctl = 0 := hM (Nat.lt_succ_of_le hstage.2)
    refine ⟨hlaid.header, hlaid.addressing, ?_⟩
    rw [Frame.trailer_of_absent (by simpa [State.frame] using hmam)]
    rfl
  | mhop hops ha hstage hroom =>
    have hmam : fctlMam s.desc.fctl = 0 := hM (Nat.lt_succ_of_le hstage.2)
    refine ⟨?_, ?_, ?_⟩
    · simpa using hlaid.header_appendField_orFctl hbuilt.two_le
    · simpa [Frame.addressing, State.frame] using
        (hlaid.addressing.appendField (hhead.trans_le hle) _ _).orFctl le_rfl _
    · rw [Frame.trailer_of_present]
      · simpa [State.frame, Desc.tail, hmam, ← ha.size] using (s.appendField_holds _ _).orFctl hbuilt.two_le _
      · simpa [State.frame, hmam] using ha.present

/-- A setter after `SET_PROTOCOL` keeps the builder's bookkeeping in every state that has it; the capacity check alone
bounds the cursor, so the configuration and the rest of memory may be any (10_state.md R25, R31 to R33). -/
theorem FieldSet.built_of_built {s t : State} (hbuilt : Built s.stage s.desc s.fsz) (hbegun : 1 ≤ stageCode s.stage)
    (h : FieldSet s t) : Built t.stage t.desc t.fsz := by
  have hfsz {n : Nat} (hroom : n + s.rsvd ≤ s.fcap) : (BitVec.ofNat 16 n).toNat = n :=
    setFsz_toNat (Nat.le_of_add_right_le hroom)
  cases h with
  | protocol id hstage hroom => exact absurd (hbegun.trans hstage.2) (by decide)
  | netId id hstage hroom => exact hbuilt.netId (Nat.lt_succ_of_le hstage.2) id (hfsz hroom)
  | dst ha hstage hroom =>
    refine hbuilt.dst (Nat.lt_succ_of_le hstage.2) ha ?_
    simpa [leBytes_length] using hfsz hroom
  | src ha hstage hroom =>
    refine hbuilt.src (Nat.lt_succ_of_le hstage.2) ha ?_
    simpa [leBytes_length] using hfsz hroom
  | payld data hstage hroom =>
    have hlen : (BitVec.ofNat 16 data.length).toNat = data.length := setFsz_toNat (s := s) (by omega)
    exact hbuilt.payld (Nat.lt_succ_of_le hstage.2) ((hfsz hroom).trans (by rw [hlen]))
  | payldSz len hstage hgrow hroom => exact hbuilt.payldSz (Nat.lt_succ_of_le hstage.2) (hfsz hroom)
  | mhop hops ha hstage hroom =>
    rw [Nat.add_comm 1] at hroom
    refine hbuilt.mhop (Nat.lt_succ_of_le hstage.2) hops ha ?_
    simpa [leBytes_length] using hfsz hroom

/-- What a run that builds a frame keeps (43_parser.md R190): TX mode after `SET_PROTOCOL p`, the builder's bookkeeping,
and the bytes it speaks of in place. -/
structure Building (p : Byte) (s : State) : Prop where
  mode : s.mode = .tx
  begun : 1 ≤ stageCode s.stage
  pid : s.desc.pid = p
  built : Built s.stage s.desc s.fsz
  laidOut : LaidOut s

section
variable {p : Byte} {s t : State}

theorem LaidOut.respond (h : LaidOut s) (r : Response) : LaidOut (s.respond r) := ⟨h.header, h.addressing, h.trailer⟩

theorem Building.respond (h : Building p s) (r : Response) : Building p (s.respond r) :=
  ⟨h.mode, h.begun, h.pid, h.built, h.laidOut.respond r⟩

theorem Building.advanceDraws (h : Building p s) (k : Nat) : Building p (s.advanceDraws k) :=
  ⟨h.mode, h.begun, h.pid, h.built, h.laidOut.header, h.laidOut.addressing, h.laidOut.trailer⟩

/-- A setter writes the Protocol-Id only before the frame is begun. -/
theorem FieldSet.pid (hbegun : 1 ≤ stageCode s.stage) (h : FieldSet s t) : t.desc.pid = s.desc.pid := by
  cases h with
  | protocol id hstage hroom => exact absurd (hbegun.trans hstage.2) (by decide)
  | netId | dst | src | payld | payldSz | mhop => simp

theorem Building.fieldSet (h : Building p s) (hset : FieldSet s t) : Building p t := by
  obtain ⟨-, hmode, -⟩ := hset.frame
  obtain ⟨-, hstage⟩ := hset.stage
  exact ⟨hmode.trans h.mode, h.begun.trans hstage, (hset.pid h.begun).trans h.pid, hset.built_of_built h.built h.begun,
    hset.laidOut h.built h.begun h.laidOut⟩

/-- A byte written through the port outside the frame, or into the payload, leaves the laid-out parts alone
(70_reset_and_hazards.md R257). -/
theorem Building.bufWr (h : Building p s) {addr : Half} {b : Byte} (ha : allowedInBuild s (.bufWr addr b) = true) :
    Building p (s.store addr.toNat [b]) := by
  have ha := of_decide_eq_true ha
  obtain ⟨hhead, hle⟩ := h.built.header_le
  obtain ⟨-, ⟨-, -, hmam⟩, ⟨-, -, -, -, hpayO, hmhopO, hmicO, hz⟩, -, -⟩ := id h.built
  have htrailer : s.frame.trailer.length = mszD (fctlMam s.desc.fctl) := Frame.trailer_length hmam
  refine ⟨h.mode, h.begun, h.pid, h.built, h.laidOut.header.store ?_, h.laidOut.addressing.store ?_,
    h.laidOut.trailer.store ?_⟩
  · simp only [List.length_cons, List.length_nil]; omega
  · omega
  · omega

/-- `NEW_TX; SET_PROTOCOL p` begins a frame of two bytes (41_builder_header.md R141). -/
theorem building_start {u : State} (hnew : exec .newTx s = .next t) (hset : exec (.setProtocol p) t = .next u)
    (hok : respondedOk u) : Building p u := by
  obtain ⟨c, -, rfl⟩ | ⟨-, rfl⟩ := runSetter_next hset
  · cases hok
  · rw [complete_next.mp hnew]
    refine Building.respond ?_ _
    exact ⟨rfl, le_rfl, rfl, built_protocol p, laidOut_of_fctl_zero (State.frWrite_frBytes _ 0 [p, 0]) rfl⟩

/-- Every operation allowed in a build keeps the frame in building; `PARSE` fails in TX mode (43_parser.md R180). -/
theorem Building.exec {i : Instr} (h : Building p s) (hi : allowedInBuild s i = true) (he : exec i s = .next t) :
    Building p t := by
  have hnoRx : s.mode ≠ .rx := by rw [h.mode]; decide
  cases exec_answer he with
  | failed i c hparse => exact h.respond _
  | discard | newTx | newRx => cases hi
  | rejected c hmode => exact absurd hmode hnoRx
  | parsed d hmode hframe => exact absurd hmode hnoRx
  | set hisSetter hmode hset => exact (h.fieldSet hset).respond _
  | bufRd addr k r => exact (h.advanceDraws k).respond r
  | bufWr addr b haddr => exact (h.bufWr hi).respond _
  | regRd idx k r => exact (h.advanceDraws k).respond r

end

theorem building_of_buildRun {s t : State} (h : BuildRun s t) : Building s.cfg.pidCsma t := by
  induction h with
  | start hnew hset hok => exact building_start hnew hset hok
  | step _ hi he ih => exact ih.exec hi he

/-! ### A built frame is its fields in order -/

/-- An IE region has at least its header byte (30_encoding.md R98). -/
theorem ieszD_ne_zero {c : BitVec 2} (h : c ≠ 3) : ieszD c ≠ 0 := by
  revert h; revert c; decide

/-- The frame that consistent descriptors stand for is legal (30_encoding.md R91 to R100). -/
theorem frame_ok_of_describes {s : State} (h : Describes s.desc s.fsz) : s.frame.ok s.desc.pid := by
  obtain ⟨⟨hrec, -⟩, ⟨hieSz, hmicSz, hcodes, hieh⟩, hnet, hdst, hsrc, htx, hhops⟩ := h
  refine ⟨rfl, hrec, hnet, hdst, hsrc, htx, hhops, fun (hI : fctlI s.desc.fctl = true) => ⟨hcodes hI, ?_⟩,
    fun (hI : fctlI s.desc.fctl = false) => ⟨hieh hI, ?_⟩, ?_⟩
  · obtain ⟨hisc, -⟩ := of_decide_eq_true (hcodes hI)
    rw [ieRegionSize, if_pos hI] at hieSz
    have hlen : s.frame.ieBody.length = s.desc.ieSz.toNat - 1 := by simp [State.frame, State.ieBytes]
    rw [hlen, hieSz]
    exact Nat.sub_one_add_one (ieszD_ne_zero hisc)
  · rw [ieRegionSize, hI] at hieSz
    have hbytes : s.ieBytes = [] := by rw [State.ieBytes, hieSz]; rfl
    simp only [State.frame, hbytes, List.drop_nil]
  · exact (s.frBytes_length ..).trans hmicSz

/-- A Frame-Control byte with bit 6 clear is one a builder composes (30_encoding.md R103). -/
theorem eq_builderFctl {f : Byte} (h : fctlI f = false) :
    f = builderFctl (fctlN f) (fctlDam f) (fctlSam f) (fctlMam f) := by
  revert f; decide

theorem Building.frameBytes {p : Byte} {s : State} (h : Building p s) : s.frameBytes = s.frame.bytes := by
  obtain ⟨hdesc, -⟩ := built_iff.mp h.built
  have hok := frame_ok_of_describes hdesc
  obtain ⟨⟨hno, -⟩, -⟩ := h.built
  obtain ⟨hie, -, hmicO, hcount⟩ := sizes_of_describes (x := s.frame) hdesc hok rfl rfl
  have hpayld : s.desc.payldSz.toNat = s.frame.payload.length := (s.frBytes_length ..).symm
  have hlen : s.fsz.toNat = s.frame.bytes.length := by
    rw [hpayld] at hcount
    exact Nat.add_right_cancel hcount
  have hregion : s.Holds s.desc.ieOff.toNat s.frame.ieRegion := by
    rw [Frame.ieRegion_of_absent (x := s.frame) hno]
    exact s.holds_nil _
  have hpayload : s.Holds s.desc.payldOff.toNat s.frame.payload := s.holds_frBytes _ s.desc.payldSz.toNat
  have hmic : s.Holds s.desc.micOff.toNat s.frame.mic := s.holds_frBytes _ s.desc.micSz.toNat
  exact State.frameBytes_eq_iff.mpr ⟨hlen, (State.holds_frame_bytes_at hdesc.1 rfl hie hpayld hmicO).mpr
    ⟨h.laidOut.header, h.laidOut.addressing, hregion, hpayload, h.laidOut.trailer, hmic⟩⟩

/-- Settles O36: what every allowed operation keeps (`Building`) says that each part stands at its offset. -/
theorem builtFrameIsItsFieldsInOrder : Obligations.BuiltFrameIsItsFieldsInOrder := by
  intro s t hrun
  have h := building_of_buildRun hrun
  obtain ⟨hdesc, -⟩ := built_iff.mp h.built
  obtain ⟨⟨hno, -, hieSz, hmicSz⟩, ⟨hdam, hsam, hmam⟩, -⟩ := id h.built
  exact ⟨h.frameBytes, h.pid ▸ frame_ok_of_describes hdesc, _, _, _, _, hdam, hsam, hmam, eq_builderFctl hno, hieSz,
    hmicSz⟩

end Sys2Proof.Machine

/-! PROOFS. The statements of spec/40_lifecycle.md. First the buffer's algebra: a store at an address overrides the
earlier one there, stores at two addresses commute, so storing a byte string twice is storing it once. Then `NEW_RX` and
a run of `BUF_WR` as equations, from which the four proofs follow. -/

namespace Sys2Proof.Machine

/-! ### Stores at the same address and at two addresses

None of these asks for the canonical form: every entry that a store walks past has a lower address. -/

section
variable {m : Memory} {x a : Nat}

theorem Memory.write_cons_lt (c b : Byte) (h : a < x) : Memory.write ((x, c) :: m) a b = (a, b) :: (x, c) :: m :=
  if_pos h

theorem Memory.write_cons_self (c b : Byte) : Memory.write ((a, c) :: m) a b = (a, b) :: m := by
  simp [Memory.write]

theorem Memory.write_cons_gt (c b : Byte) (h : x < a) :
    Memory.write ((x, c) :: m) a b = (x, c) :: Memory.write m a b := by
  simp [Memory.write, h.not_gt, h.ne']

/-- The last store at an address counts (20_memory.md R72). -/
theorem Memory.write_write_self (m : Memory) (a : Nat) (b b' : Byte) :
    Memory.write (Memory.write m a b) a b' = Memory.write m a b' := by
  induction m with
  | nil => exact Memory.write_cons_self b b'
  | cons c m ih =>
    obtain ⟨x, c⟩ := c
    obtain h | rfl | h := lt_trichotomy a x
    · rw [Memory.write_cons_lt c b h, Memory.write_cons_lt c b' h, Memory.write_cons_self]
    · simp only [Memory.write_cons_self]
    · simp only [Memory.write_cons_gt _ _ h, ih]

/-- Stores at two addresses can change places. -/
theorem Memory.write_comm (m : Memory) {a a' : Nat} (h : a < a') (b b' : Byte) :
    Memory.write (Memory.write m a b) a' b' = Memory.write (Memory.write m a' b') a b := by
  induction m with
  | nil => rw [Memory.write, Memory.write_cons_gt b b' h, Memory.write, Memory.write_cons_lt b' b h]
  | cons c m ih =>
    obtain ⟨x, c⟩ := c
    obtain hx | rfl | hx := lt_trichotomy a x
    · rw [Memory.write_cons_lt c b hx, Memory.write_cons_gt b b' h]
      obtain hx' | rfl | hx' := lt_trichotomy a' x
      · rw [Memory.write_cons_lt c b' hx', Memory.write_cons_lt b' b h]
      · rw [Memory.write_cons_self, Memory.write_cons_lt b' b h]
      · rw [Memory.write_cons_gt c b' hx', Memory.write_cons_lt c b hx]
    · rw [Memory.write_cons_self, Memory.write_cons_gt b b' h, Memory.write_cons_gt c b' h, Memory.write_cons_self]
    · simp only [Memory.write_cons_gt _ _ hx, Memory.write_cons_gt _ _ (hx.trans h), ih]

/-- A byte stored below a byte string can be stored before it. -/
theorem Memory.write_writeList (bs : List Byte) (m : Memory) {a a' : Nat} (h : a < a') (b : Byte) :
    Memory.write (Memory.writeList m a' bs) a b = Memory.writeList (Memory.write m a b) a' bs := by
  induction bs generalizing m a' with
  | nil => rfl
  | cons c bs ih =>
    calc Memory.write (Memory.writeList (Memory.write m a' c) (a' + 1) bs) a b
      _ = Memory.writeList (Memory.write (Memory.write m a' c) a b) (a' + 1) bs := ih _ (Nat.lt_succ_of_lt h)
      _ = Memory.writeList (Memory.write (Memory.write m a b) a' c) (a' + 1) bs := by rw [Memory.write_comm m h]

/-- Storing a byte string where it already stands changes nothing. -/
theorem Memory.writeList_writeList_self (bs : List Byte) (m : Memory) (a : Nat) :
    Memory.writeList (Memory.writeList m a bs) a bs = Memory.writeList m a bs := by
  induction bs generalizing m a with
  | nil => rfl
  | cons b bs ih =>
    simp only [Memory.writeList]
    rw [Memory.write_writeList bs _ (Nat.lt_succ_self a), Memory.write_write_self, ih]

end

/-! ### `NEW_RX` and `BUF_WR` as equations (40_lifecycle.md R132, 44_access.md R201) -/

section
variable {s : State} {data : List Byte}

theorem exec_newRx_of_lt (h : s.fcap < data.length) : exec (.newRx data) s = .next (failed s .capacity) := if_pos h

/-- What a `NEW_RX` that fits leaves: the configuration, the bytes outside the data, the pending inputs and the two
counters come from the state before, and nothing else. -/
def State.received (s : State) (data : List Byte) : State :=
  { State.resetWith s.cfg with
    mode := .rx, fsz := BitVec.ofNat 16 data.length, buf := Memory.writeList s.buf s.headroom data,
    inputs := s.inputs, epoch := s.epoch, draws := s.draws, resp := some okResponse }

theorem exec_newRx_of_le (h : data.length ≤ s.fcap) : exec (.newRx data) s = .next (s.received data) :=
  if_neg (Nat.not_lt.mpr h)

@[simp] theorem State.received_bufByte (x : Nat) :
    (s.received data).bufByte x = (s.store s.headroom data).bufByte x := rfl

/-- Neither the received bytes, standing there already, nor an earlier response make a difference. -/
theorem State.received_store (s : State) (data : List Byte) (r : Option Response) :
    State.received { s.store s.headroom data with resp := r } data = s.received data :=
  congrArg (fun m => { s.received data with buf := m }) (Memory.writeList_writeList_self data s.buf s.headroom)

theorem exec_bufWr_of_lt {addr : Half} (b : Byte) (h : addr.toNat < s.cap) :
    exec (.bufWr addr b) s = .next ((s.store addr.toNat [b]).respond okResponse) :=
  if_neg (Nat.not_le.mpr h)

/-- `BUF_WR` of a byte string inside the buffer stores it; besides that only the response differs, which an empty string
leaves as it was. -/
theorem execAll_pokes_append (is : List Instr) {a : Nat} (h : a + data.length ≤ s.cap) :
    ∃ r, execAll (pokes a data ++ is) s = execAll is { s.store a data with resp := r } := by
  induction data generalizing s a with
  | nil => exact ⟨s.resp, rfl⟩
  | cons b bs ih =>
    rw [List.length_cons] at h
    have haddr : (BitVec.ofNat 16 a).toNat = a := by
      have hcap : s.cap < 2 ^ 16 := s.cfg.cap.isLt
      rw [BitVec.toNat_ofNat, Nat.mod_eq_of_lt (by omega)]
    have hpoke : exec (.bufWr (BitVec.ofNat 16 a) b) s = .next ((s.store a [b]).respond okResponse) := by
      rw [exec_bufWr_of_lt b (by omega), haddr]
    obtain ⟨r, hrest⟩ := ih (s := (s.store a [b]).respond okResponse) (a := a + 1)
      (by rw [State.respond_cap, State.store_cap]; omega)
    refine ⟨r, ?_⟩
    simp only [pokes, List.cons_append, execAll, hpoke]
    exact hrest

theorem execAll_singleton (i : Instr) (s : State) : execAll [i] s = exec i s := by
  unfold execAll
  cases exec i s <;> rfl

end

/-! ### The lifecycle statements -/

/-- Settles O13: registers are cleared and `BUF` is not touched. -/
theorem discardEndsTheFrame : Obligations.DiscardEndsTheFrame :=
  fun s => ⟨_, rfl, rfl, s.clearRegs_bufByte⟩

/-- Settles O14: as `DISCARD`, in TX mode, where `REMAIN` is what the reserve leaves of an empty frame. -/
theorem newTxOpensAnEmptyFrame : Obligations.NewTxOpensAnEmptyFrame :=
  fun s => ⟨_, rfl, rfl, State.remain_tx rfl, rfl, s.clearRegs_bufByte⟩

/-- Settles O15: a length within `FCAP` fits register `FSZ`, and the bytes are those of one store at `HEADROOM`. -/
theorem newRxLoadsTheReceivedBytes : Obligations.NewRxLoadsTheReceivedBytes := by
  intro s data
  refine ⟨exec_newRx_of_lt, fun hfit => ⟨_, exec_newRx_of_le hfit, rfl, setFsz_toNat hfit, fun x => ?_⟩⟩
  rw [State.received_bufByte, State.store_bufByte]

/-- Settles O16: after the pokes `NEW_RX` stores the bytes where they already stand, and answers anew. -/
theorem loadingThroughThePortFirstIsTheSame : Obligations.LoadingThroughThePortFirstIsTheSame := by
  intro s data hc hfit
  have hroom : s.headroom + data.length ≤ s.cap := by
    have := headroom_le_cap hc
    unfold State.fcap at hfit
    omega
  obtain ⟨r, hpokes⟩ := execAll_pokes_append [.newRx data] hroom
  have hfit' : data.length ≤ State.fcap { s.store s.headroom data with resp := r } := hfit
  rw [hpokes, execAll_singleton, exec_newRx_of_le hfit', exec_newRx_of_le hfit, s.received_store]

end Sys2Proof.Machine

/-! PROOFS. The statements of spec/41_builder_header.md. The Network-Id and the addresses are one operation: a value
appended little-endian with its bits of Frame-Control. Its registers and bytes are computed once, and each of these
setters is a case of it; `SET_PROTOCOL`, which writes two bytes at fixed offsets, stands alone. -/

namespace Sys2Proof.Machine

/-! ### A stage law of one stage (10_state.md R24) -/

theorem stageIn_zero_iff {k : Stage} : stageIn 0 0 k = true ↔ k = .empty := by cases k <;> decide

theorem stageIn_one_iff {k : Stage} : stageIn 1 1 k = true ↔ k = .proto := by cases k <;> decide

/-! ### The registers after a setter (10_state.md R25) -/

/-- The end of a completed setter as one update, so that a register is read off without computing the buffer. -/
theorem State.respond_endField (s : State) (k : Stage) (r : Response) :
    (s.endField k).respond r = { s with stage := k, desc := s.desc.tail s.fsz k, resp := some r } := rfl

/-! ### Bytes and registers of a field appended with its bits of Frame-Control (41_builder_header.md R140) -/

section
variable {s : State} {n : Nat}

/-- The field's bytes, and the Frame-Control byte, which is written after them and so wins where they meet. -/
theorem fieldStored_appendField_orFctl {d : Desc} (hd : d.fctl = s.desc.fctl) {bs : List Byte} {field : Nat → Byte}
    (hlen : bs.length = n) (hfield : ∀ i < n, bs.getD i 0 = field i) (mask : Byte) :
    FieldStored s ((s.appendField d bs).orFctl mask) (s.desc.fctl ||| mask) n field := by
  subst hlen
  intro x
  rw [State.orFctl_bufByte, State.appendField_desc, hd, State.appendField_headroom, State.appendField_bufByte]
  split
  next => rfl
  next =>
    split
    next hin => exact hfield _ (by omega)
    next => rfl

/-- The rule of every setter that appends the low `n` bytes of a value: the offsets after the field are the new `FSZ`,
which the capacity check keeps within its register. -/
theorem setterRule_appendValue (d : Desc) {i : Instr} {lg : Bool} {legal : Prop} {v : Long} {mask : Byte} {k : Stage}
    (he : exec i s = runSetter (builderCheck lg (s.fsz.toNat + n) s) s
      (((s.appendField d (leBytes n v)).orFctl mask).endField k))
    (hl : lg = true ↔ legal) (hd : d.fctl = s.desc.fctl) :
    SetterRule i s legal (s.fsz.toNat + n) fun t =>
      t = { s with
              fsz := t.fsz, stage := k, buf := t.buf, resp := some okResponse,
              desc := Desc.tail { d with fctl := s.desc.fctl ||| mask } t.fsz k }
      ∧ t.fsz.toNat = s.fsz.toNat + n
      ∧ FieldStored s t (s.desc.fctl ||| mask) n (byteOf v) := by
  refine setterRule_of he hl fun hroom => ⟨?registers, ?size, ?bytes⟩
  case registers => simp [State.respond_endField, hd]
  case size =>
    rw [State.respond_fsz, State.endField_fsz, State.orFctl_fsz, State.appendField_fsz, leBytes_length]
    exact setFsz_toNat (Nat.le_of_add_right_le hroom)
  case bytes =>
    intro x
    rw [State.respond_bufByte, State.endField_bufByte]
    exact fieldStored_appendField_orFctl hd (leBytes_length n v) (leBytes_getD n v) mask x

end

/-- The bytes after `SET_PROTOCOL`'s writes: the Protocol-Id at frame offset 0, the byte after it. -/
theorem State.frWrite_zero_pair_bufByte (s : State) (b c : Byte) (x : Nat) :
    (s.frWrite 0 [b, c]).bufByte x =
      if x = s.headroom then b else if x = s.headroom + 1 then c else s.bufByte x := by
  rw [State.frWrite_bufByte]
  obtain rfl | h0 := eq_or_ne x s.headroom
  · simp
  obtain rfl | h1 := eq_or_ne x (s.headroom + 1)
  · simp
  · rw [if_neg (by simp only [List.length_cons, List.length_nil]; omega), if_neg h0, if_neg h1]

/-! ### The header statements -/

/-- Settles O17: the two bytes and the registers are constants of the operation, and `STAGE` 0 is the empty frame. -/
theorem setProtocolWritesTheTwoHeaderBytes : Obligations.SetProtocolWritesTheTwoHeaderBytes := by
  intro s id
  refine setterRule_of rfl stageIn_zero_iff fun _ => ⟨?registers, ?bytes⟩
  case registers => rw [State.respond_endField]; rfl
  case bytes =>
    intro x
    rw [State.respond_bufByte, State.endField_bufByte, State.setFsz_bufByte, State.setDesc_bufByte]
    exact s.frWrite_zero_pair_bufByte id 0 x

/-- Settles O18: the low 2 bytes of the identifier, with bit 7. -/
theorem setNetIdAppendsTheNetworkId : Obligations.SetNetIdAppendsTheNetworkId :=
  fun s id => setterRule_appendValue { s.desc with netid := id, netidOff := s.fsz } rfl stageIn_one_iff rfl

/-- Settles O19: both widths append the low bytes of register `DST`. -/
theorem setDstAppendsTheDestination : Obligations.SetDstAppendsTheDestination :=
  ⟨fun s a => setterRule_appendValue { s.desc with dst := a.setWidth 64, dstOff := s.fsz } rfl stageIn_iff rfl,
    fun s a => setterRule_appendValue { s.desc with dst := a, dstOff := s.fsz } rfl stageIn_iff rfl⟩

/-- Settles O20: both widths append the low bytes of register `SRC`. -/
theorem setSrcAppendsTheSource : Obligations.SetSrcAppendsTheSource :=
  ⟨fun s a => setterRule_appendValue { s.desc with src := a.setWidth 64, srcOff := s.fsz } rfl stageIn_iff rfl,
    fun s a => setterRule_appendValue { s.desc with src := a, srcOff := s.fsz } rfl stageIn_iff rfl⟩

end Sys2Proof.Machine

/-! PROOFS. The statements of spec/42_builder_payload_trailer.md. The trailer's two widths are one rule, of the hop count
byte and the relay address appended with the mode's bits of Frame-Control. The payload's two paths meet in the fact that
before the payload `PAYLD_OFF` is `FSZ`, so that `PAYLD_PTR` is where `SET_PAYLD` stores. -/

namespace Sys2Proof.Machine

/-! ### The payload (42_builder_payload_trailer.md R161, R162) -/

/-- Settles O21: the data is stored as it is, and the capacity check keeps both the frame size and the length within
their registers. -/
theorem setPayldCopiesThePayload : Obligations.SetPayldCopiesThePayload := by
  intro s data
  refine setterRule_of rfl stageIn_iff fun hroom => ⟨?registers, ?size, ?payldSize, ?bytes⟩
  case registers => rw [State.respond_endField]; rfl
  case size => exact setFsz_toNat (Nat.le_of_add_right_le hroom)
  case payldSize => exact setFsz_toNat (s := s) (by omega)
  case bytes =>
    intro x
    rw [State.respond_bufByte, State.endField_bufByte, State.appendField_bufByte]

/-- The stage law of `SET_PAYLD_SZ` with its refusal to shrink the payload. -/
theorem payldSzLegal_iff {s : State} {len : Half} :
    (stageIn 1 5 s.stage && decide (s.desc.payldSz.toNat ≤ len.toNat)) = true ↔
      stageBetween 1 5 s ∧ s.desc.payldSz.toNat ≤ len.toNat := by
  rw [Bool.and_eq_true, stageIn_iff, decide_eq_true_iff]

/-- Settles O22: registers only, the buffer is the one before. -/
theorem setPayldSzRecordsTheSize : Obligations.SetPayldSzRecordsTheSize := by
  intro s len
  refine setterRule_of rfl payldSzLegal_iff fun hroom => ⟨?registers, ?size, ?bytes⟩
  case registers => rw [State.respond_endField]; rfl
  case size => exact setFsz_toNat (Nat.le_of_add_right_le hroom)
  case bytes =>
    intro x
    rw [State.respond_bufByte, State.endField_bufByte, State.setFsz_bufByte, State.setDesc_bufByte]

/-! ### The multi-hop trailer (42_builder_payload_trailer.md R164, R165) -/

/-- The bytes of a trailer: the hop count, then the relay address. -/
theorem trailerBytes_getD (hops : Byte) (a : Long) {n i : Nat} (h : i < 1 + n) :
    (hops :: leBytes n a).getD i 0 = if i = 0 then hops else byteOf a (i - 1) := by
  cases i with
  | zero => rfl
  | succ i => exact leBytes_getD n a i (by omega)

/-- The rule of the trailer setters, for a relay address of `n` bytes. -/
theorem setterRule_appendMhop {s : State} {i : Instr} (n : Nat) {hops : Byte} {a : Long} {mask : Byte}
    (he : exec i s = appendMhop n hops a mask s) :
    SetterRule i s (stageBetween 1 5 s) (s.fsz.toNat + (1 + n)) fun t =>
      t = { s with
              fsz := t.fsz, stage := .mhop, buf := t.buf, resp := some okResponse,
              desc := { s.desc with hops := hops, txaddr := a, mhopOff := s.fsz, fctl := s.desc.fctl ||| mask,
                                    micOff := t.fsz } }
      ∧ t.fsz.toNat = s.fsz.toNat + (1 + n)
      ∧ FieldStored s t (s.desc.fctl ||| mask) (1 + n) (fun j => if j = 0 then hops else byteOf a (j - 1)) := by
  have hlen : (hops :: leBytes n a).length = 1 + n := by rw [List.length_cons, leBytes_length, Nat.add_comm]
  refine setterRule_of he stageIn_iff fun hroom => ⟨?registers, ?size, ?bytes⟩
  case registers => simp [State.respond_endField, Desc.tail]
  case size =>
    rw [State.respond_fsz, State.endField_fsz, State.orFctl_fsz, State.appendField_fsz, hlen]
    exact setFsz_toNat (Nat.le_of_add_right_le hroom)
  case bytes =>
    intro x
    rw [State.respond_bufByte, State.endField_bufByte]
    exact fieldStored_appendField_orFctl rfl hlen (fun _ => trailerBytes_getD hops a) mask x

/-- Settles O23: relay addresses of 2 and of 8 bytes. -/
theorem setMhopAppendsTheTrailer : Obligations.SetMhopAppendsTheTrailer :=
  ⟨fun _ _ _ => setterRule_appendMhop 2 rfl, fun _ _ _ => setterRule_appendMhop 8 rfl⟩

/-! ### The reserved operation (42_builder_payload_trailer.md R166) -/

/-- Settles O24: the arm is the one way of failing, with the label of R166. -/
theorem setMicAlwaysFails : Obligations.SetMicAlwaysFails := fun _ => rfl

/-! ### The payload in place (42_builder_payload_trailer.md R160) -/

/-- A setter whose checks pass completes with its writes (41_builder_header.md R140). -/
theorem runSetter_of_checks {lg : Bool} {z : Nat} {s : State} (s' : State) (hm : s.mode = .tx) (hl : lg = true)
    (hroom : z + s.rsvd ≤ s.fcap) : runSetter (builderCheck lg z s) s s' = .next (s'.respond okResponse) := by
  rw [builderCheck_none.mpr ⟨hm, hl, hroom⟩]; rfl

/-- Before the payload the payload registers name the place where it will stand: offset `FSZ`, size 0. -/
theorem Built.payld_at_fsz {k : Stage} {d : Desc} {z : Half} (h : Built k d z) (hk : stageCode k < 5) :
    d.payldOff = z ∧ d.payldSz = 0 := by
  obtain ⟨-, -, hoff, -, -, -, -, hP, hM⟩ := h
  have hsz := hP hk
  rw [BuiltOffsets, hsz, hM (by omega)] at hoff
  obtain ⟨-, -, -, -, -, hmhop, hmic, hz⟩ := hoff
  refine ⟨BitVec.eq_of_toNat_eq ?_, hsz⟩
  rw [hz, hmic, hmhop]
  rfl

/-- The length recorded over bytes that stand at `PAYLD_PTR` is the payload appended, whatever answered before. -/
theorem payldSz_store_eq_appendField {s : State} {data : List Byte} {len : Half} (hoff : s.desc.payldOff = s.fsz)
    (hlen : len.toNat = data.length) (r : Option Response) :
    ((((State.setDesc { s.store s.payldPtr data with resp := r } { s.desc with payldSz := len }).setFsz
        (s.desc.payldOff.toNat + len.toNat)).endField .payld).respond okResponse) =
      ((s.appendField { s.desc with payldOff := s.fsz, payldSz := len } data).endField .payld).respond okResponse := by
  rw [State.payldPtr, State.appendField, hlen, ← hoff]
  rfl

/-- Settles O27: `SET_PAYLD_SZ` passes its checks where `SET_PAYLD` does, since the size to keep is 0 and `PAYLD_OFF` is
`FSZ`; the bytes stand there already. -/
theorem inPlacePayloadEqualsCopiedPayload : Obligations.InPlacePayloadEqualsCopiedPayload := by
  intro s data hinv hm hstage hlen
  obtain ⟨hbuilt, hfree⟩ := hinv.built hm hstage.1
  obtain ⟨hoff, hsz⟩ := hbuilt.payld_at_fsz (Nat.lt_succ_of_le hstage.2)
  have hroom : s.fsz.toNat + data.length + s.rsvd ≤ s.fcap := by rw [State.remain_tx hm] at hlen; omega
  have hlength : (BitVec.ofNat 16 data.length).toNat = data.length := setFsz_toNat (s := s) (by omega)
  refine ⟨_, runSetter_of_checks _ hm (stageIn_iff.mpr hstage) hroom, rfl, ?inPlace⟩
  case inPlace =>
    have hfits : s.payldPtr + data.length ≤ s.cap := by
      have := fits_of_room hinv.1 hroom
      rw [State.payldPtr, hoff]
      omega
    obtain ⟨r, hpokes⟩ := execAll_pokes_append [.setPayldSz (BitVec.ofNat 16 data.length)] hfits
    have hlegal : stageBetween 1 5 s ∧ s.desc.payldSz.toNat ≤ (BitVec.ofNat 16 data.length).toNat :=
      ⟨⟨hstage.1, Nat.le_succ_of_le hstage.2⟩, by rw [hsz]; exact Nat.zero_le _⟩
    have hrecord : s.desc.payldOff.toNat + (BitVec.ofNat 16 data.length).toNat + s.rsvd ≤ s.fcap := by
      rwa [hoff, hlength]
    rw [hpokes, execAll_singleton, ← payldSz_store_eq_appendField hoff hlength r]
    exact runSetter_of_checks _ hm (payldSzLegal_iff.mpr hlegal) hrecord

end Sys2Proof.Machine

/-! PROOFS. The statements of spec/43_parser.md. The key fact is that `PARSE` commits a descriptor set exactly when it
describes the frame, its values are the bytes at its own offsets, and its Protocol-Id is the recognized one
(`parseFrame_ok_iff`): such a frame is accepted, and such descriptors are unique. The round trip, the independence from
the bytes outside the read set, and the rest follow from it. -/

namespace Sys2Proof.Machine

/-! ### `PARSE` answers `ok` only for what R181 to R185 ask for -/

section
variable {s : State} {d e : Desc} {z : Half}

/-- The IE header byte of the frame is the one read (30_encoding.md R97). -/
theorem ReadsFields.iehByte (h : ReadsFields s d) (hoff : Consistent d z) (hI : fctlI d.fctl = true) :
    s.iehByte = d.ieh := by
  rw [State.iehByte, ← h.fctl, ← ieOff_of_consistent hoff, h.ieh hI]

/-- A frame that some descriptors describe, their values read from it, is structurally valid. -/
theorem accepted_of_describes (hdesc : Describes d s.fsz) (hreads : ReadsFields s d) (hpid : d.pid = s.cfg.pidCsma) :
    accepted s := by
  obtain ⟨hoff, ⟨hieSz, hmicSz, hcodes, -⟩, -⟩ := hdesc
  have hieh (hI : fctlI d.fctl = true) : s.iehByte = d.ieh := hreads.iehByte hoff hI
  have hheader := ieOff_of_consistent hoff
  obtain ⟨hrec, hnetO, hdstO, hsrcO, hieO, hpayO, hmhopO, hmicO, hz⟩ := hoff
  rw [accepted, ← hreads.fctl, minLength_congr hieh]
  refine ⟨by omega, hreads.pid.symm.trans hpid, hrec, fun hI => ⟨?_, hieh hI ▸ hcodes hI⟩, ?_⟩
  · obtain ⟨hisc, -⟩ := of_decide_eq_true (hcodes hI)
    have hpos := ieszD_ne_zero hisc
    rw [ieRegionSize, if_pos hI] at hieSz
    omega
  · unfold minLength
    omega

/-! ### The descriptors of a frame are unique -/

/-- The signalling bytes and the frame's size determine every offset and size (10_state.md R31 to R33). -/
theorem layout_unique (hd : Describes d z) (he : Describes e z) (hfctl : d.fctl = e.fctl) (hieh : d.ieh = e.ieh) :
    d = { e with pid := d.pid, netid := d.netid, dst := d.dst, src := d.src, hops := d.hops, txaddr := d.txaddr } := by
  obtain ⟨⟨-, dnetO, ddstO, dsrcO, dieO, dpayO, dmhopO, dmicO, dz⟩, ⟨dieSz, dmicSz, -⟩, -⟩ := hd
  obtain ⟨⟨-, enetO, edstO, esrcO, eieO, epayO, emhopO, emicO, ez⟩, ⟨eieSz, emicSz, -⟩, -⟩ := he
  rw [hfctl] at ddstO dsrcO dieO dmicO
  rw [hfctl, hieh] at dieSz dmicSz
  obtain ⟨⟩ := d
  obtain ⟨⟩ := e
  simp only at *
  simp only [Desc.mk.injEq, BitVec.toNat_eq, true_and, hfctl, hieh]
  omega

/-- Descriptors that describe one frame, their values read from it, are the same. -/
theorem desc_unique (hd : Describes d z) (he : Describes e z) (hrd : ReadsFields s d) (hre : ReadsFields s e) :
    d = e := by
  have hfctl : d.fctl = e.fctl := hrd.fctl.trans hre.fctl.symm
  have hieh : d.ieh = e.ieh := by
    obtain ⟨hoffD, ⟨-, -, -, habsentD⟩, -⟩ := hd
    obtain ⟨hoffE, ⟨-, -, -, habsentE⟩, -⟩ := he
    cases hI : fctlI e.fctl with
    | false => rw [habsentD (hfctl ▸ hI), habsentE hI]
    | true => rw [← hrd.iehByte hoffD (hfctl ▸ hI), hre.iehByte hoffE hI]
  have hlayout := layout_unique hd he hfctl hieh
  have hnetO : d.netidOff = e.netidOff := (congrArg Desc.netidOff hlayout :)
  have hdstO : d.dstOff = e.dstOff := (congrArg Desc.dstOff hlayout :)
  have hsrcO : d.srcOff = e.srcOff := (congrArg Desc.srcOff hlayout :)
  have hmhopO : d.mhopOff = e.mhopOff := (congrArg Desc.mhopOff hlayout :)
  have hnet : d.netid = e.netid := by rw [hrd.netid, hre.netid, hfctl, hnetO]
  have hdst : d.dst = e.dst := by rw [hrd.dst, hre.dst, hfctl, hdstO]
  have hsrc : d.src = e.src := by rw [hrd.src, hre.src, hfctl, hsrcO]
  have hrelay : d.hops = e.hops ∧ d.txaddr = e.txaddr := by
    obtain ⟨-, -, -, -, -, ⟨dtx, -⟩, dhops⟩ := hd
    obtain ⟨-, -, -, -, -, ⟨etx, -⟩, ehops⟩ := he
    rw [hfctl] at dtx dhops
    by_cases h0 : fctlMam e.fctl = 0
    · exact ⟨(dhops h0).trans (ehops h0).symm, (dtx h0).trans (etx h0).symm⟩
    · have h0' : fctlMam d.fctl ≠ 0 := hfctl ▸ h0
      rw [hrd.hops h0', hrd.txaddr h0', hre.hops h0, hre.txaddr h0, hfctl, hmhopO]
      exact ⟨rfl, rfl⟩
  obtain ⟨hhops, htx⟩ := hrelay
  rw [hlayout, hrd.pid.trans hre.pid.symm, hnet, hdst, hsrc, hhops, htx]

/-- What `PARSE` commits (43_parser.md R180 to R187). -/
theorem parseFrame_ok_iff :
    parseFrame s = .ok d ↔ Describes d s.fsz ∧ ReadsFields s d ∧ d.pid = s.cfg.pidCsma := by
  constructor
  · intro h
    obtain ⟨hdesc, hpid⟩ := parseFrame_describes h
    exact ⟨hdesc, parseFrame_reads h, hpid⟩
  · rintro ⟨hdesc, hreads, hpid⟩
    obtain ⟨e, he⟩ := parseFrame_of_accepted (accepted_of_describes hdesc hreads hpid)
    obtain ⟨hedesc, -⟩ := parseFrame_describes he
    rw [he, desc_unique hdesc hedesc hreads (parseFrame_reads he)]

theorem accepted_of_parseFrame (h : parseFrame s = .ok d) : accepted s := by
  obtain ⟨hdesc, hreads, hpid⟩ := parseFrame_ok_iff.mp h
  exact accepted_of_describes hdesc hreads hpid

/-! ### `PARSE` as an operation (43_parser.md R180, R188) -/

/-- An accepted frame is parsed. -/
theorem exec_parse_of_accepted (hmode : s.mode = .rx) (hfit : s.headroom + s.fsz.toNat ≤ s.cap) (h : accepted s) :
    ∃ d, parseFrame s = .ok d ∧ exec .parse s = .next (((s.setDesc d).setValid true).respond okResponse) := by
  obtain ⟨d, hparse⟩ := parseFrame_of_accepted h
  exact ⟨d, hparse, execParse_of_ok hmode hfit hparse⟩

/-- Any other frame is a format failure. -/
theorem exec_parse_of_not_accepted (hmode : s.mode = .rx) (hfit : s.headroom + s.fsz.toNat ≤ s.cap)
    (h : ¬ accepted s) : ∃ c, exec .parse s = formatFail c s := by
  cases hparse : parseFrame s with
  | error c => exact ⟨c, by simp [exec, execParse, hmode, Nat.not_lt.mpr hfit, hparse]⟩
  | ok d => exact absurd (accepted_of_parseFrame hparse) h

/-- In RX mode `PARSE` answers a next state only when the frame is inside the buffer (10_state.md R22). -/
theorem frame_fits_of_execParse {t : State} (hmode : s.mode = .rx) (h : execParse s = .next t) :
    s.headroom + s.fsz.toNat ≤ s.cap := by
  by_contra hfit
  simp [execParse, hmode, Nat.lt_of_not_le hfit] at h

end

/-! ### The round trip (43_parser.md R190) -/

section
variable {s : State} {data : List Byte}

/-- A received byte string is the frame. -/
theorem State.received_frameBytes (h : data.length ≤ s.fcap) : (s.received data).frameBytes = data :=
  State.frameBytes_eq_iff.mpr ⟨setFsz_toNat h, s.frWrite_frBytes 0 data⟩

/-- A received frame that is not empty is inside the buffer, whatever the configuration. -/
theorem State.received_fits (hpos : 0 < data.length) (h : data.length ≤ s.fcap) :
    (s.received data).headroom + (s.received data).fsz.toNat ≤ (s.received data).cap := by
  have hfsz : (s.received data).fsz.toNat = data.length := setFsz_toNat h
  rw [hfsz]
  show s.headroom + data.length ≤ s.cap
  unfold State.fcap at h
  omega

/-- What `PARSE` answers to the bytes of a legal frame. -/
theorem exec_parse_of_frameBytes {x : Frame} (hmode : s.mode = .rx) (hfit : s.headroom + s.fsz.toNat ≤ s.cap)
    (hok : x.ok s.cfg.pidCsma) (h : s.frameBytes = x.bytes) :
    ∃ d, exec .parse s = .next (((s.setDesc d).setValid true).respond okResponse) ∧ Describes d s.fsz
      ∧ (s.setDesc d).frame = x := by
  obtain ⟨d, hparse, hexec⟩ := exec_parse_of_accepted hmode hfit (accepted_of_frameBytes hok h)
  obtain ⟨hdesc, -⟩ := parseFrame_describes hparse
  exact ⟨d, hexec, hdesc, frame_eq_of_parseFrame hok h hparse⟩

end

/-- States with the same frame, described by their registers, have the same registers. -/
theorem desc_eq_of_frame_eq {s t : State} (hs : Describes s.desc s.fsz) (ht : Describes t.desc t.fsz)
    (hfsz : s.fsz = t.fsz) (h : s.frame = t.frame) : s.desc = t.desc := by
  have hpid : s.desc.pid = t.desc.pid := congrArg Frame.pid h
  have hnet : s.desc.netid = t.desc.netid := congrArg Frame.netid h
  have hdst : s.desc.dst = t.desc.dst := congrArg Frame.dst h
  have hsrc : s.desc.src = t.desc.src := congrArg Frame.src h
  have hhops : s.desc.hops = t.desc.hops := congrArg Frame.hops h
  have htx : s.desc.txaddr = t.desc.txaddr := congrArg Frame.txaddr h
  have hlayout := layout_unique hs (hfsz ▸ ht) (congrArg Frame.fctl h) (congrArg Frame.ieh h)
  rw [hlayout, hpid, hnet, hdst, hsrc, hhops, htx]

/-- Settles O35: the built bytes are the layout of a legal frame (`Building`), which `PARSE` takes apart into exactly
its fields; with the same size, the same fields leave no choice of descriptors. -/
theorem buildingThenParsingRecoversTheFrame : Obligations.BuildingThenParsingRecoversTheFrame := by
  intro s t s' hrun hroom hcsma
  have hbuilding := building_of_buildRun hrun
  obtain ⟨hdesc, -⟩ := built_iff.mp hbuilding.built
  have hlen : t.frameBytes.length = t.fsz.toNat := t.frBytes_length ..
  have hpos : 0 < t.frameBytes.length := by have := hbuilding.built.two_le; omega
  have hdata : t.frameBytes.length ≤ s'.fcap := hlen.trans_le hroom
  have hfsz : (s'.received t.frameBytes).fsz = t.fsz := BitVec.eq_of_toNat_eq ((setFsz_toNat hdata).trans hlen)
  have hpid : s'.cfg.pidCsma = t.desc.pid := hcsma.trans hbuilding.pid.symm
  obtain ⟨d, hexec, hparsed, hframe⟩ := exec_parse_of_frameBytes rfl (State.received_fits hpos hdata)
    (hpid ▸ frame_ok_of_describes hdesc) ((State.received_frameBytes hdata).trans hbuilding.frameBytes)
  have hsame := desc_eq_of_frame_eq (s := (s'.received t.frameBytes).setDesc d) hparsed hdesc hfsz hframe
  exact ⟨_, _, exec_newRx_of_le hdata, hexec, rfl, rfl, hsame, hfsz, congrArg Frame.payload hframe⟩

/-! ### What `PARSE` answers and changes -/

/-- Settles O29: a frame is accepted and parsed, or a format failure. -/
theorem parseAcceptsExactlyTheStructurallyValid : Obligations.ParseAcceptsExactlyTheStructurallyValid := by
  intro s hmode hfit
  by_cases h : accepted s
  · obtain ⟨d, -, hexec⟩ := exec_parse_of_accepted hmode hfit h
    exact ⟨_, hexec, iff_of_true rfl h, iff_of_false nofun (not_not_intro h)⟩
  · obtain ⟨c, hexec⟩ := exec_parse_of_not_accepted hmode hfit h
    exact ⟨_, hexec, iff_of_false nofun h, iff_of_true rfl h⟩

/-- Settles O30: `FormatFail` is the only answer to a frame that is not accepted. -/
theorem parseFormatFailureTouchesOnlyValidAndDescriptors :
    Obligations.ParseFormatFailureTouchesOnlyValidAndDescriptors := by
  intro s hmode hfit h
  obtain ⟨c, hexec⟩ := exec_parse_of_not_accepted hmode hfit h
  exact ⟨_, hexec, rfl, rfl, fun _ => rfl⟩

/-- Settles O31. -/
theorem parseCommitsEveryField : Obligations.ParseCommitsEveryField := by
  intro s hmode hfit h
  obtain ⟨d, hparse, hexec⟩ := exec_parse_of_accepted hmode hfit h
  obtain ⟨hdesc, hreads, hpid⟩ := parseFrame_ok_iff.mp hparse
  refine ⟨_, hexec, rfl, hdesc, hpid, hreads.fctl, fun hN => ?netid, hreads.dst, hreads.src, hreads.ieh,
    fun h0 => ⟨hreads.hops h0, hreads.txaddr h0⟩⟩
  case netid =>
    have hnet := hreads.netid
    rw [show fctlN d.fctl = true from hN, nsz_true] at hnet
    exact hnet

/-- Settles O34: the descriptors and `VALID` it wrote are no input of the parser. -/
theorem parseIsRepeatable : Obligations.ParseIsRepeatable := by
  intro s t h hok
  obtain ⟨-, rfl⟩ | ⟨-, c, -, rfl⟩ | ⟨hmode, d, hparse, rfl⟩ := execParse_next h
  · cases hok
  · cases hok
  · have hfit := frame_fits_of_execParse hmode h
    exact execParse_of_ok (s := ((s.setDesc d).setValid true).respond okResponse) hmode hfit hparse

/-- Settles O28: the mode is the first check. -/
theorem parseOutsideRxModeChangesNothing : Obligations.ParseOutsideRxModeChangesNothing :=
  fun _ hmode => if_pos hmode

/-! ### The read set (43_parser.md R189) -/

/-- Two received frames of one length, under one Protocol-Id parameter, with the same bytes at the offsets of the first
one's read set. -/
structure AgreesOnReadSet (s s' : State) : Prop where
  fsz : s'.fsz = s.fsz
  pidCsma : s'.cfg.pidCsma = s.cfg.pidCsma
  bytes : ∀ o, inReadSet s o → s'.frByte o = s.frByte o

section
variable {s s' : State} {d : Desc}

theorem AgreesOnReadSet.pid (h : AgreesOnReadSet s s') (hlen : 1 ≤ s.fsz.toNat) : s'.frByte 0 = s.frByte 0 :=
  h.bytes 0 ⟨hlen, .inl rfl⟩

theorem AgreesOnReadSet.fctl (h : AgreesOnReadSet s s') (hlen : 2 ≤ s.fsz.toNat) (hpid : s.frByte 0 = s.cfg.pidCsma) :
    s'.frByte 1 = s.frByte 1 :=
  h.bytes 1 ⟨hlen, .inr ⟨hpid, .inl rfl⟩⟩

/-- An IE header byte inside the frame is read. -/
theorem AgreesOnReadSet.iehByte (h : AgreesOnReadSet s s') (hlen : 2 ≤ s.fsz.toNat)
    (hpid : s.frByte 0 = s.cfg.pidCsma) (hrec : recognizedFctl (s.frByte 1) = true) (hI : fctlI (s.frByte 1) = true)
    (hin : ieOffset (s.frByte 1) < s.fsz.toNat) : s'.iehByte = s.iehByte := by
  rw [State.iehByte, h.fctl hlen hpid]
  exact h.bytes _ ⟨hin, .inr ⟨hpid, .inr ⟨hrec, .inr (.inl ⟨hI, rfl⟩)⟩⟩⟩

/-- Each check of `PARSE` is about bytes that the checks before it let it read. -/
theorem AgreesOnReadSet.accepted_iff (h : AgreesOnReadSet s s') : accepted s ↔ accepted s' := by
  simp only [accepted, h.fsz, h.pidCsma]
  refine and_congr_right fun hlen => ?_
  rw [h.pid (Nat.le_of_succ_le hlen)]
  refine and_congr_right fun hpid => ?_
  rw [h.fctl hlen hpid]
  refine and_congr_right fun hrec => ?_
  have hieh (hI : fctlI (s.frByte 1) = true) (hin : ieOffset (s.frByte 1) < s.fsz.toNat) : s'.iehByte = s.iehByte :=
    h.iehByte hlen hpid hrec hI hin
  have hcodes (hI : fctlI (s.frByte 1) = true) (hin : ieOffset (s.frByte 1) < s.fsz.toNat) :
      recognizedIeh s.iehByte = true ↔ recognizedIeh s'.iehByte = true := by rw [hieh hI hin]
  rw [← forall_congr' fun hI => and_congr_right (hcodes hI)]
  refine and_congr_right fun hie => ?_
  rw [minLength_congr fun hI => hieh hI (hie hI).1]

/-- The offsets whose bytes a successful parse commits are in the read set. -/
theorem inReadSet_of_parseFrame (h : parseFrame s = .ok d) {o : Nat}
    (ho : (2 ≤ o ∧ o < d.ieOff.toNat) ∨ (fctlI d.fctl = true ∧ o = d.ieOff.toNat)
      ∨ (d.mhopOff.toNat ≤ o ∧ o < d.micOff.toNat)) : inReadSet s o := by
  obtain ⟨hlen, hcsma, hrec, hie, -⟩ := accepted_of_parseFrame h
  obtain ⟨⟨hoff, ⟨-, hmicSz, -⟩, -⟩, hreads, -⟩ := parseFrame_ok_iff.mp h
  have hieO := ieOff_of_consistent hoff
  have hmic : micFieldSize d.fctl s.iehByte = d.micSz.toNat := by
    cases hI : fctlI d.fctl with
    | false => simp only [hmicSz, micFieldSize, hI, Bool.false_eq_true, if_false]
    | true => rw [hmicSz, hreads.iehByte hoff hI]
  obtain ⟨-, -, -, -, -, hpayO, hmhopO, hmicO, hz⟩ := hoff
  rw [← hreads.fctl] at hie hrec
  rw [inReadSet, ← hreads.fctl, hmic, ← hieO]
  rcases ho with ho | ⟨hI, rfl⟩ | ho
  · exact ⟨by omega, .inr ⟨hcsma, .inr ⟨hrec, .inl ho⟩⟩⟩
  · exact ⟨hieO.trans_lt (hie hI).1, .inr ⟨hcsma, .inr ⟨hrec, .inr (.inl ⟨hI, rfl⟩)⟩⟩⟩
  · exact ⟨by omega, .inr ⟨hcsma, .inr ⟨hrec, .inr (.inr (by omega))⟩⟩⟩

/-- A value read depends on its own bytes only. -/
theorem State.frRead_congr {o n : Nat} (h : ∀ i < n, s'.frByte (o + i) = s.frByte (o + i)) :
    s'.frRead o n = s.frRead o n := by
  have hbytes : s'.frBytes o n = s.frBytes o n := List.map_congr_left fun i hi => h i (List.mem_range.mp hi)
  rw [State.frRead, State.frRead, hbytes]

/-- What a parse commits is read from the other frame too. -/
theorem AgreesOnReadSet.readsFields (h : AgreesOnReadSet s s') (hparse : parseFrame s = .ok d) : ReadsFields s' d := by
  obtain ⟨hlen, hcsma, -⟩ := accepted_of_parseFrame hparse
  obtain ⟨⟨hoff, -⟩, hreads, -⟩ := parseFrame_ok_iff.mp hparse
  obtain ⟨hrec, hnetO, hdstO, hsrcO, hieO, -, -, hmicO, -⟩ := hoff
  obtain ⟨-, -, hmam⟩ := recognizedFctl_iff.mp hrec
  have hheader {c n : Nat} (hc : 2 ≤ c) (hn : c + n ≤ d.ieOff.toNat) : s'.frRead c n = s.frRead c n :=
    State.frRead_congr fun i hi => h.bytes _ (inReadSet_of_parseFrame hparse (.inl (by omega)))
  have htrailer {o : Nat} (ho : d.mhopOff.toNat ≤ o) (ho' : o < d.micOff.toNat) : s'.frByte o = s.frByte o :=
    h.bytes o (inReadSet_of_parseFrame hparse (.inr (.inr ⟨ho, ho'⟩)))
  have hmsz (h0 : fctlMam d.fctl ≠ 0) := mszD_eq hmam h0
  constructor
  case pid => rw [hreads.pid, h.pid (Nat.le_of_succ_le hlen)]
  case fctl => rw [hreads.fctl, h.fctl hlen hcsma]
  case netid => rw [hheader (by omega) (by omega), ← hreads.netid]
  case dst => rw [hheader (by omega) (by omega), ← hreads.dst]
  case src => rw [hheader (by omega) (by omega), ← hreads.src]
  case ieh =>
    intro hI
    rw [hreads.ieh hI, h.bytes _ (inReadSet_of_parseFrame hparse (.inr (.inl ⟨hI, rfl⟩)))]
  case hops =>
    intro h0
    have := hmsz h0
    rw [hreads.hops h0, htrailer le_rfl (by omega)]
  case txaddr =>
    intro h0
    have := hmsz h0
    rw [State.frRead_congr fun i hi => htrailer (by omega) (by omega), ← hreads.txaddr h0]

theorem AgreesOnReadSet.parseFrame_ok (h : AgreesOnReadSet s s') (hparse : parseFrame s = .ok d) :
    parseFrame s' = .ok d := by
  obtain ⟨hdesc, -, hpid⟩ := parseFrame_ok_iff.mp hparse
  exact parseFrame_ok_iff.mpr ⟨h.fsz ▸ hdesc, h.readsFields hparse, hpid.trans h.pidCsma.symm⟩

end

/-- Settles O33: both frames are accepted or neither is, and when they are the same descriptors satisfy
`parseFrame_ok_iff` in both. -/
theorem parseReadsOnlyItsReadSet : Obligations.ParseReadsOnlyItsReadSet := by
  intro s s' hmode hmode' hfit hfit' hfsz hpid hbytes
  have hagree : AgreesOnReadSet s s' := ⟨hfsz, hpid, hbytes⟩
  by_cases h : accepted s
  · obtain ⟨d, hparse, hexec⟩ := exec_parse_of_accepted hmode hfit h
    have hexec' := execParse_of_ok hmode' hfit' (hagree.parseFrame_ok hparse)
    exact ⟨_, _, hexec, hexec', Iff.rfl, fun _ => ⟨rfl, rfl⟩⟩
  · obtain ⟨c, hexec⟩ := exec_parse_of_not_accepted hmode hfit h
    obtain ⟨c', hexec'⟩ := exec_parse_of_not_accepted hmode' hfit' fun h' => h (hagree.accepted_iff.mpr h')
    exact ⟨_, _, hexec, hexec', iff_of_false nofun nofun, nofun⟩

end Sys2Proof.Machine

/-! PROOFS. The statements of spec/44_access.md. Each port operation has one equation per case of its rule: inside the
buffer or the register file, and beyond it. A described field can be read because it ends inside the frame, and the
frame inside the buffer (R205). -/

namespace Sys2Proof.Machine

/-! ### The buffer port (44_access.md R200, R201) -/

section
variable {s : State} {addr : Half}

theorem exec_bufRd_of_lt (h : addr.toNat < s.cap) :
    exec (.bufRd addr) s = .next (s.respond { ok := true, rdata := .byte (s.bufByte addr.toNat), cause := none }) :=
  if_neg (Nat.not_le.mpr h)

theorem exec_bufRd_of_le (h : s.cap ≤ addr.toNat) :
    exec (.bufRd addr) s =
      .next ((s.advanceDraws 1).respond
        { ok := false, rdata := .byte (Config.any8 s.draws), cause := some .range }) :=
  if_pos h

theorem exec_bufWr_of_le (b : Byte) (h : s.cap ≤ addr.toNat) : exec (.bufWr addr b) s = .next (failed s .range) :=
  if_pos h

end

/-- One byte stored at an address is the only byte that changes (20_memory.md R72). -/
theorem State.store_singleton_bufByte (s : State) (a : Nat) (b : Byte) (x : Nat) :
    (s.store a [b]).bufByte x = if x = a then b else s.bufByte x := by
  rw [State.store_bufByte, List.length_singleton]
  by_cases hx : x = a
  · subst hx
    rw [if_pos ⟨le_rfl, Nat.lt_succ_self x⟩, if_pos rfl, Nat.sub_self]
    rfl
  · rw [if_neg (by omega), if_neg hx]

/-- Settles O39: inside the buffer only the response is new, beyond it a draw is taken too. -/
theorem bufRdReadsOneByte : Obligations.BufRdReadsOneByte :=
  fun _ _ => ⟨exec_bufRd_of_lt, fun h => ⟨_, _, exec_bufRd_of_le h, rfl⟩⟩

/-- Settles O40: inside the buffer the write is a store of one byte, beyond it a failure. -/
theorem bufWrStoresOneByte : Obligations.BufWrStoresOneByte :=
  fun s addr b =>
    ⟨fun h => ⟨_, exec_bufWr_of_lt b h, rfl, s.store_singleton_bufByte addr.toNat b⟩, exec_bufWr_of_le b⟩

/-! ### The register port (44_access.md R203) -/

theorem modeCode_le (m : Mode) : modeCode m ≤ 2 := by cases m <;> decide

theorem stageCode_le (k : Stage) : stageCode k ≤ 6 := by cases k <;> decide

/-- `REMAIN` never exceeds `FCAP` (10_state.md R34). -/
theorem State.remain_le_fcap (s : State) : s.remain ≤ s.fcap := by
  unfold State.remain
  split <;> omega

/-- `PAYLD_PTR` is a sum of two 16-bit registers (10_state.md R34). -/
theorem State.payldPtr_lt (s : State) : s.payldPtr < 2 ^ 17 := by
  have hheadroom := s.cfg.headroom.isLt
  have hpayldOff := s.desc.payldOff.isLt
  unfold State.payldPtr State.headroom
  omega

/-- A register that is computed at the read reads as the number computed, when 64 bits hold it. -/
theorem toNat_ofNat_long {n : Nat} (h : n < 2 ^ 64) : (BitVec.ofNat 64 n).toNat = n := by
  rw [BitVec.toNat_ofNat, Nat.mod_eq_of_lt h]

/-- The register file is what the port reads, register by register (10_state.md R21): stored registers are only
zero-extended, and the codes and derived registers fit 64 bits. -/
theorem registerFile_eq_map (s : State) : registerFile s = regList.map fun r => (regValue s r).toNat := by
  have hmode : modeCode s.mode < 2 ^ 64 := Nat.lt_of_le_of_lt (modeCode_le _) (by decide)
  have hstage : stageCode s.stage < 2 ^ 64 := Nat.lt_of_le_of_lt (stageCode_le _) (by decide)
  have hvalid : (if s.valid then 1 else 0 : Long).toNat = s.valid.toNat := by cases s.valid <;> rfl
  have hremain : s.remain < 2 ^ 64 :=
    Nat.lt_of_le_of_lt s.remain_le_fcap (Nat.lt_trans s.fcap_lt (by decide))
  have hptr : s.payldPtr < 2 ^ 64 := Nat.lt_trans s.payldPtr_lt (by decide)
  simp only [regList, List.map_cons, List.map_nil, regValue, toNat_ofNat_long hmode, toNat_ofNat_long hstage, hvalid,
    toNat_ofNat_long hremain, toNat_ofNat_long hptr, BitVec.toNat_setWidth_of_le, Nat.reduceLeDiff]
  rfl

theorem regList_length : regList.length = 28 := rfl

theorem exec_regRd_of_lt (s : State) {idx : BitVec 6} (h : idx.toNat < regList.length) :
    exec (.regRd idx) s =
      .next (s.respond { ok := true, rdata := .word (regValue s regList[idx.toNat]), cause := none }) := by
  rw [exec, execRegRd, regOfIdx, List.getElem?_eq_getElem h]

theorem exec_regRd_of_le (s : State) {idx : BitVec 6} (h : regList.length ≤ idx.toNat) :
    exec (.regRd idx) s =
      .next ((s.advanceDraws 1).respond
        { ok := false, rdata := .word (Config.any64 s.draws), cause := some .reg }) := by
  rw [exec, execRegRd, regOfIdx, List.getElem?_eq_none h]

/-- Settles O41: the port reads entry `idx` of the register list, and the register file is that list's values. -/
theorem regRdReadsEveryRegister : Obligations.RegRdReadsEveryRegister := by
  intro s idx
  refine ⟨fun h => ?_, fun h => ⟨_, _, exec_regRd_of_le s (regList_length ▸ h), rfl⟩⟩
  have hidx : idx.toNat < regList.length := by simpa [registerFile_eq_map] using h
  refine ⟨_, ?_, exec_regRd_of_lt s hidx⟩
  simp [registerFile_eq_map]

/-! ### Described fields lie in the frame (44_access.md R205) -/

/-- The IE region, the payload and the integrity field end at or before the frame's end. -/
structure FieldsInside (d : Desc) (z : Half) : Prop where
  ie : d.ieOff.toNat + d.ieSz.toNat ≤ z.toNat
  payld : d.payldOff.toNat + d.payldSz.toNat ≤ z.toNat
  mic : d.micOff.toNat + d.micSz.toNat ≤ z.toNat

/-- Consistent fields follow one another up to the frame's end (10_state.md R31). -/
theorem fieldsInside_of_consistent {d : Desc} {z : Half} (h : Consistent d z) : FieldsInside d z := by
  obtain ⟨-, -, -, -, -, hpayld, hmhop, hmic, hend⟩ := h
  constructor <;> omega

/-- An empty frame has no fields, a begun one and a parsed one have consistent descriptors (10_state.md R35). -/
theorem Inv.fieldsInside {s : State} (h : Inv s) (hdesc : s.described = true) : FieldsInside s.desc s.fsz := by
  obtain ⟨-, -, -, -, -, htx, hrx⟩ := h
  simp only [State.described, Bool.or_eq_true, Bool.and_eq_true, decide_eq_true_eq] at hdesc
  rcases hdesc with hm | ⟨hm, hvalid⟩
  · obtain ⟨-, hempty, hbegun⟩ := htx hm
    by_cases hstage : s.stage = .empty
    · obtain ⟨-, hzero⟩ := hempty hstage
      rw [hzero]
      exact ⟨Nat.zero_le _, Nat.zero_le _, Nat.zero_le _⟩
    · obtain ⟨⟨hoff, -⟩, -⟩ := hbegun hstage
      exact fieldsInside_of_consistent hoff
  · obtain ⟨-, hparsed⟩ := hrx hm
    obtain ⟨⟨hoff, -⟩, -⟩ := hparsed hvalid
    exact fieldsInside_of_consistent hoff

/-- Settles O42: a described field ends inside the frame, the frame inside the buffer, so the read is in range. -/
theorem describedFieldBytesAreReadable : Obligations.DescribedFieldBytesAreReadable := by
  intro s addr hinv hdesc haddr
  obtain ⟨hie, hpayld, hmic⟩ := hinv.fieldsInside hdesc
  obtain ⟨-, -, -, hfit, -⟩ := hinv
  have hlt : addr.toNat < s.cap := by
    rw [State.payldPtr] at haddr
    omega
  exact ⟨_, exec_bufRd_of_lt hlt, rfl⟩

end Sys2Proof.Machine

/-! PROOFS. The statements of spec/60_exceptions.md: what a failing operation leaves (R225), that it is forgotten at once
(R229), and which operations change the mode (R236). The first and the last go along everything an operation can answer
(`exec_answer`); for the second, the response of an operation takes the place of the one before it, whatever it was. -/

namespace Sys2Proof.Machine

/-- Settles O43: of the answers that respond `ok = 0`, only a format failure of `PARSE`, which needs RX mode, writes
more than the response and the counter of draws. -/
theorem failureLeavesTheStateUnchanged : Obligations.FailureLeavesTheStateUnchanged := by
  intro i s t h hfail hparse
  cases exec_answer h with
  | failed | bufRd | regRd => rfl
  | rejected c hmode => exact absurd hmode (hparse rfl)
  | discard | newTx | newRx | parsed | set | bufWr => cases hfail

/-- Settles O45: no answer of an operation that is not constructing writes `MODE`, and a constructing operation that
fails writes nothing. -/
theorem onlyLifecycleOperationsChangeTheMode : Obligations.OnlyLifecycleOperationsChangeTheMode := by
  intro i s t h hmoved
  cases exec_answer h with
  | discard | newTx | newRx => exact ⟨rfl, rfl⟩
  | set hi hmode hset =>
    obtain ⟨-, hkept, -⟩ := hset.frame
    exact absurd hkept hmoved
  | failed | rejected | parsed | bufRd | bufWr | regRd => exact absurd rfl hmoved

/-! ### The response before an operation (60_exceptions.md R220, R229)

The writes of an operation and its checks do not see the response the state holds, and the operation's own takes its
place. -/

/-- The state with another response before the next operation. -/
def State.withResp (s : State) (r : Option Response) : State := { s with resp := r }

section
variable (s : State) (r : Option Response)

@[simp] theorem State.withResp_fsz : (s.withResp r).fsz = s.fsz := rfl
@[simp] theorem State.withResp_stage : (s.withResp r).stage = s.stage := rfl
@[simp] theorem State.withResp_desc : (s.withResp r).desc = s.desc := rfl

@[simp] theorem State.withResp_respond (q : Response) : (s.withResp r).respond q = s.respond q := rfl
@[simp] theorem State.withResp_setDesc (d : Desc) : (s.withResp r).setDesc d = (s.setDesc d).withResp r := rfl
@[simp] theorem State.withResp_setFsz (n : Nat) : (s.withResp r).setFsz n = (s.setFsz n).withResp r := rfl
@[simp] theorem State.withResp_frWrite (o : Nat) (bs : List Byte) :
    (s.withResp r).frWrite o bs = (s.frWrite o bs).withResp r := rfl
@[simp] theorem State.withResp_endField (k : Stage) : (s.withResp r).endField k = (s.endField k).withResp r := rfl
@[simp] theorem State.withResp_appendField (d : Desc) (bs : List Byte) :
    (s.withResp r).appendField d bs = (s.appendField d bs).withResp r := rfl
@[simp] theorem State.withResp_orFctl (mask : Byte) : (s.withResp r).orFctl mask = (s.orFctl mask).withResp r := rfl

@[simp] theorem raiseFail_withResp (c : Cause) : raiseFail c (s.withResp r) = raiseFail c s := rfl

@[simp] theorem builderCheck_withResp (legal : Bool) (size : Nat) :
    builderCheck legal size (s.withResp r) = builderCheck legal size s := rfl

/-- A setter's failure and its success both respond. -/
@[simp] theorem runSetter_withResp (check : Option Cause) (t : State) :
    runSetter check (s.withResp r) (t.withResp r) = runSetter check s t := by
  cases check with
  | none => exact congrArg Host.Outcome.next (t.withResp_respond r okResponse)
  | some c => exact raiseFail_withResp s r c

theorem appendDst_withResp (n : Nat) (a : Long) (mask : Byte) :
    appendDst n a mask (s.withResp r) = appendDst n a mask s := by simp [appendDst]

theorem appendSrc_withResp (n : Nat) (a : Long) (mask : Byte) :
    appendSrc n a mask (s.withResp r) = appendSrc n a mask s := by simp [appendSrc]

theorem appendMhop_withResp (n : Nat) (hops : Byte) (a : Long) (mask : Byte) :
    appendMhop n hops a mask (s.withResp r) = appendMhop n hops a mask s := by simp [appendMhop]

/-- The parser reads the parameters, `FSZ` and the buffer (43_parser.md R180). -/
theorem parseFrame_withResp : parseFrame (s.withResp r) = parseFrame s := rfl

/-- In RX mode both outcomes of `PARSE` respond; outside it `PARSE` fails as any operation does. -/
theorem execParse_withResp : execParse (s.withResp r) = execParse s := by
  rw [execParse, parseFrame_withResp, raiseFail_withResp]
  rfl

/-- No operation reads the response the state holds, and each leaves its own. -/
theorem exec_withResp (i : Instr) : exec i (s.withResp r) = exec i s := by
  cases i with
  | discard | newTx | newRx => rfl
  | parse => exact execParse_withResp s r
  | setProtocol id => simp [exec, execSetProtocol]
  | setNetId id => simp [exec, execSetNetId]
  | setDstShort | setDstLong => exact appendDst_withResp s r _ _ _
  | setSrcShort | setSrcLong => exact appendSrc_withResp s r _ _ _
  | setPayld data => simp [exec, execSetPayld]
  | setPayldSz len => exact runSetter_withResp s r _ (((s.setDesc _).setFsz _).endField .payld)
  | setMhopShort | setMhopLong => exact appendMhop_withResp s r _ _ _ _
  | setMic | unassignedF => exact raiseFail_withResp s r _
  | bufRd | bufWr | regRd => rfl

end

/-- Settles O44: `exec_withResp`, with the other response written out. -/
theorem noOperationDependsOnTheLastResponse : Obligations.NoOperationDependsOnTheLastResponse :=
  fun i s r => exec_withResp s r i

end Sys2Proof.Machine

/-! PROOFS. The statements of spec/70_reset_and_hazards.md. A step with no request waits (R250, R264) and a step on the
`RESET` event resets (R250). An operation always answers (R262): the one fault of the model is that of `PARSE` on a frame
beyond the buffer, which the invariant excludes, and every answer is a response. -/

namespace Sys2Proof.Machine

/-! ### Waiting and `RESET` (70_reset_and_hazards.md R250, R264) -/

/-- Settles O7: the step's equation for an empty list of inputs. -/
theorem stepWithoutRequestWaits : Obligations.StepWithoutRequestWaits := by
  intro s hc hin
  simp [step, hc, hin]

/-- Under a well-formed configuration a pending `RESET` event is taken. -/
theorem step_reset {s : State} {rest : List Input} (hc : wellFormedConfig s.cfg = true)
    (hin : s.inputs = .reset :: rest) : step s = .next s.dropInput.takeReset := by
  simp [step, hc, hin]

/-- No byte has been written since the new reset. -/
@[simp] theorem State.takeReset_bufByte (s : State) (a : Nat) :
    s.takeReset.bufByte a = Config.unwrittenByte (s.epoch + 1) a := by
  simp [State.bufByte]

/-- Settles O8: the event is taken off the list, and what it leaves is the reset state but for the later inputs and the
two counters. -/
theorem resetEventClearsTheMachine : Obligations.ResetEventClearsTheMachine := by
  intro s rest hc hin
  refine ⟨_, step_reset hc hin, ?_, s.dropInput.takeReset_bufByte⟩
  rw [State.dropInput_of_cons hin]
  rfl

/-! ### Every operation answers (70_reset_and_hazards.md R262, 60_exceptions.md R220) -/

/-- A setter answers whether its checks pass or not. -/
theorem exists_runSetter_next (check : Option Cause) (s s' : State) : ∃ t, runSetter check s s' = .next t := by
  cases check with
  | none => exact ⟨_, rfl⟩
  | some c => exact ⟨_, rfl⟩

/-- `PARSE` refuses outside RX mode; in it, a frame inside the buffer is accepted or rejected (43_parser.md R180). -/
theorem exists_exec_parse_next {s : State} (hfit : s.headroom + s.fsz.toNat ≤ s.cap) :
    ∃ t, exec .parse s = .next t := by
  by_cases hmode : s.mode = .rx
  · by_cases hacc : accepted s
    · obtain ⟨d, -, hexec⟩ := exec_parse_of_accepted hmode hfit hacc
      exact ⟨_, hexec⟩
    · obtain ⟨c, hexec⟩ := exec_parse_of_not_accepted hmode hfit hacc
      exact ⟨_, hexec⟩
  · exact ⟨_, parseOutsideRxModeChangesNothing s hmode⟩

/-- With its frame inside the buffer (10_state.md R22) the block neither faults on an operation nor refuses it. -/
theorem exists_exec_next (i : Instr) {s : State} (hfit : s.headroom + s.fsz.toNat ≤ s.cap) :
    ∃ t, exec i s = .next t := by
  cases i with
  | parse => exact exists_exec_parse_next hfit
  | discard | newTx | setMic | unassignedF => exact ⟨_, rfl⟩
  | newRx data =>
    obtain hlong | hroom := Nat.lt_or_ge s.fcap data.length
    · exact ⟨_, exec_newRx_of_lt hlong⟩
    · exact ⟨_, exec_newRx_of_le hroom⟩
  | setProtocol | setNetId | setDstShort | setDstLong | setSrcShort | setSrcLong | setPayld | setPayldSz | setMhopShort
  | setMhopLong => exact exists_runSetter_next _ _ _
  | bufRd addr =>
    obtain hin | hout := Nat.lt_or_ge addr.toNat s.cap
    · exact ⟨_, exec_bufRd_of_lt hin⟩
    · exact ⟨_, exec_bufRd_of_le hout⟩
  | bufWr addr b =>
    obtain hin | hout := Nat.lt_or_ge addr.toNat s.cap
    · exact ⟨_, exec_bufWr_of_lt b hin⟩
    · exact ⟨_, exec_bufWr_of_le b hout⟩
  | regRd idx =>
    obtain hin | hout := Nat.lt_or_ge idx.toNat regList.length
    · exact ⟨_, exec_regRd_of_lt s hin⟩
    · exact ⟨_, exec_regRd_of_le s hout⟩

/-- Every answer ends with a response. -/
theorem Answer.exists_resp {s t : State} {i : Instr} (h : Answer s i t) : ∃ r, t.resp = some r := by
  cases h <;> exact ⟨_, State.respond_resp _ _⟩

/-- Settles O12: the invariant keeps the frame inside the buffer, so the operation answers, and its answer responds and
keeps the parameters. -/
theorem everyOperationIsDefinedInEveryState : Obligations.EveryOperationIsDefinedInEveryState := by
  intro i s hinv
  obtain ⟨-, -, -, hfit, -⟩ := hinv
  obtain ⟨t, hexec⟩ := exists_exec_next i hfit
  obtain ⟨r, hresp⟩ := (exec_answer hexec).exists_resp
  exact ⟨t, r, hexec, hresp, exec_cfg hexec⟩

end Sys2Proof.Machine
